-- ==== Sys2Proof/Word.lean ====
section
/-! DEFINITION. Words and small containers of the Arnolit W464 model: bytes, addresses, and one value for each host, target,
source or port. -/

namespace Sys2Proof

/-- One byte of a packet, a symbol or an operand block. -/
abbrev Byte := BitVec 8

/-- A byte address of the 48-bit space (00_scope.md, section 6). -/
abbrev Addr := BitVec 48

/-- Host ports (00_scope.md, section 5). -/
inductive HostId where
  | h0 | h1 | h2 | h3
deriving DecidableEq, Repr

/-- Target ports (00_scope.md, section 5). -/
inductive TargetId where
  | t0 | t1 | t2 | t3
deriving DecidableEq, Repr

/-- The nine link ports. -/
inductive Port where
  | host (h : HostId)
  | target (t : TargetId)
  | mgmt
deriving DecidableEq, Repr

/-- The ports from which orders are taken: M and the hosts (00_scope.md, section 5). -/
inductive Source where
  | mgmt
  | host (h : HostId)
deriving DecidableEq, Repr

/-- A source as a port. -/
def Source.port : Source → Port
  | .mgmt => .mgmt
  | .host h => .host h

/-- The host ports in their order. -/
def HostId.all : List HostId := [.h0, .h1, .h2, .h3]

/-- The target ports in their order. -/
def TargetId.all : List TargetId := [.t0, .t1, .t2, .t3]

/-- Number of a host port, also its bit in a set of hosts. -/
def HostId.index : HostId → Nat
  | .h0 => 0 | .h1 => 1 | .h2 => 2 | .h3 => 3

/-- Number of a target port. -/
def TargetId.index : TargetId → Nat
  | .t0 => 0 | .t1 => 1 | .t2 => 2 | .t3 => 3

/-- One value for each host port. -/
structure PerHost (α : Type) where
  h0 : α
  h1 : α
  h2 : α
  h3 : α
deriving DecidableEq, Repr

/-- One value for each target port. -/
structure PerTarget (α : Type) where
  t0 : α
  t1 : α
  t2 : α
  t3 : α
deriving DecidableEq, Repr

/-- One value for each order source. -/
structure PerSource (α : Type) where
  mgmt : α
  host : PerHost α
deriving DecidableEq, Repr

/-- One value for each of the nine ports. -/
structure PerPort (α : Type) where
  host : PerHost α
  target : PerTarget α
  mgmt : α
deriving DecidableEq, Repr

variable {α : Type}

def PerHost.replicate (x : α) : PerHost α := ⟨x, x, x, x⟩

def PerTarget.replicate (x : α) : PerTarget α := ⟨x, x, x, x⟩

def PerSource.replicate (x : α) : PerSource α := ⟨x, .replicate x⟩

def PerPort.replicate (x : α) : PerPort α := ⟨.replicate x, .replicate x, x⟩

def PerHost.get (v : PerHost α) : HostId → α
  | .h0 => v.h0
  | .h1 => v.h1
  | .h2 => v.h2
  | .h3 => v.h3

def PerHost.set (v : PerHost α) (h : HostId) (x : α) : PerHost α :=
  match h with
  | .h0 => { v with h0 := x }
  | .h1 => { v with h1 := x }
  | .h2 => { v with h2 := x }
  | .h3 => { v with h3 := x }

def PerTarget.get (v : PerTarget α) : TargetId → α
  | .t0 => v.t0
  | .t1 => v.t1
  | .t2 => v.t2
  | .t3 => v.t3

def PerTarget.set (v : PerTarget α) (t : TargetId) (x : α) : PerTarget α :=
  match t with
  | .t0 => { v with t0 := x }
  | .t1 => { v with t1 := x }
  | .t2 => { v with t2 := x }
  | .t3 => { v with t3 := x }

def PerSource.get (v : PerSource α) : Source → α
  | .mgmt => v.mgmt
  | .host h => v.host.get h

def PerSource.set (v : PerSource α) (src : Source) (x : α) : PerSource α :=
  match src with
  | .mgmt => { v with mgmt := x }
  | .host h => { v with host := v.host.set h x }

def PerPort.get (v : PerPort α) : Port → α
  | .host h => v.host.get h
  | .target t => v.target.get t
  | .mgmt => v.mgmt

def PerPort.set (v : PerPort α) (p : Port) (x : α) : PerPort α :=
  match p with
  | .host h => { v with host := v.host.set h x }
  | .target t => { v with target := v.target.set t x }
  | .mgmt => { v with mgmt := x }

end Sys2Proof
end

