-- ==== Sys2Proof/Config.lean ====
section
/-! DEFINITION. The numbers the spec fixes for the W464: sizes of its tables and queues, identity, grants, default timers.
The spec leaves no value open that an event would need, so there is no free value here. -/

namespace Sys2Proof.Config

/-- Window slots (section 1.1 of 01_the_window_directory.md). -/
abbrev slots : Nat := 64

/-- Extension records of the pool (R101). -/
abbrev poolRecords : Nat := 96

/-- Reply entries (R52). -/
abbrev replyEntries : Nat := 48

/-- Places of a host's ingress queue, and the REQUEST credits granted for them (R29). -/
def ingressPlaces : Nat := 8

/-- Places of a target's egress queue (R151). -/
def egressPlaces : Nat := 16

/-- Places of an order queue, and the ORDER credits granted for them: 8 for M, 4 for each host (R73). -/
def orderPlaces : Source → Nat
  | .mgmt => 8
  | .host _ => 4

/-- Jobs of the drain list (R117). -/
def drainPlaces : Nat := 8

/-- Most credits held toward a partner in one class (R174). -/
def heldMax : Nat := 4095

/-- Windows that one LIST reports (R100). -/
def listBatch : Nat := 8

/-- Last byte address of the space, FFFF_FFFF_FFFFh. -/
def lastAddress : Nat := 2 ^ 48 - 1

/-- Reply limit at power-on and pin reset, in units of 10 µs (R189). -/
def defaultReplyLimit : BitVec 16 := 5000

/-- Drain limit at power-on and pin reset, in ms (R189). -/
def defaultDrainLimit : BitVec 16 := 200

/-- Largest drain limit, in ms (R189). -/
def drainLimitMax : Nat := 4095

/-- Vendor code, part code and revision (R190). -/
def vendorCode : BitVec 16 := 0x5A31

def partCode : BitVec 16 := 0x0464

def revision : Byte := 1

end Sys2Proof.Config
end

