-- ==== Sys2Proof/Syntax.lean ====
section
/-! DEFINITION. The commands of the part: one constructor for each row of spec/opcode_table.json, with the operands that the
row's rule names. An arriving packet or symbol carries its bytes' fields as received, with the check value as received. -/

namespace Sys2Proof

/-- A framed packet as it arrives, less its kind code, which the command gives (R161, R164).
`cut` says that the framed size was below 18 bytes, so that header or check value are not whole (log 13). -/
structure Frame where
  cut : Bool
  origin : Byte
  length : BitVec 16
  tag : BitVec 16
  status : Byte
  orderCode : Byte
  address : Addr
  unused : BitVec 16
  payload : List Byte
  check : BitVec 16
deriving DecidableEq, Repr

/-- An arriving symbol of the right size: its five argument bytes, first byte most significant, and its check value
(R161, R173). -/
structure Symbol where
  args : BitVec 40
  check : BitVec 16
deriving DecidableEq, Repr

/-- The commands, one for each row of the table. The decisions of the arbiter have no operand: R78 gives which order is
decided, and the command names that order (log 3). -/
inductive Instr where
  | powerOn (resetHigh : Bool)
  | pinReset
  | resetNRelease
  | startUpEnd
  | start (p : Port) (sym : Symbol)
  | partStartSent (p : Port)
  | stop (p : Port) (sym : Symbol)
  | restart (p : Port) (sym : Symbol)
  | credit (p : Port) (sym : Symbol)
  | lossOfSignal (p : Port)
  | post (h : HostId) (f : Frame)
  | fetch (h : HostId) (f : Frame)
  | order (src : Source) (f : Frame)
  | reply (t : TargetId) (f : Frame)
  | misdirectedPacket (p : Port) (kind : Byte) (f : Frame)
  | forwardAttempt (h : HostId)
  | delivery (t : TargetId)
  | returnQueueSending (src : Source)
  | replyTimerExpiry (i : Fin Config.replyEntries)
  | drainTimerExpiry (slot : Fin Config.slots)
  | query
  | find
  | list
  | readStatus
  | openWindow
  | activate
  | modify
  | retire
  | lock
  | attach
  | detach
  | setFallback
  | setRights
  | freeze
  | barPort
  | enablePort
  | readEvents
  | clearEvents
  | setEventEnables
  | setNotify
  | setTimers
  | resetPaths
  | clearResetCause
  | unknownOrder
  | lossOfSupply
  | malformedSymbol (p : Port) (bytes : List Byte)
deriving DecidableEq, Repr

end Sys2Proof
end

