-- ==== Sys2Proof/Machine/State.lean ====
section
/-! DEFINITION. The state of the W464: every piece the spec names, block by block, as plain data, with the accessors and
updates the operations use, and the state after power-on. -/

namespace Sys2Proof.Machine

/-! ### Window Directory (chapter 1) and window extensions (chapter 5) -/

/-- Slot and generation together (R1). -/
structure Handle where
  slot : Fin Config.slots
  generation : BitVec 8
deriving DecidableEq, Repr

/-- What carries a forwarded request: a window or the fallback route (R24, R52). -/
inductive Route where
  | window (handle : Handle)
  | fallback
deriving DecidableEq, Repr

/-- The statuses of REPLY and ORDER_REPLY packets (R166). -/
inductive Status where
  | done | targetError | timeout | portDown | aborted | noWindow | straddle | closing | denied | barred
  | noRights | mgmtOnly | frozen | notFound | stale | notOwner | locked | wrongState | busy | badOperand
  | outsideAllotment | overlap | duplicateKind | noSlot | noSpace | drainExpired | unknownOrder
deriving DecidableEq, Repr

/-- Request kinds a window serves (R6). -/
inductive Access where
  | read | write | readWrite
deriving DecidableEq, Repr

/-- Drain modes (R118). -/
inductive Mode where
  | gentle | force
deriving DecidableEq, Repr

/-- Permission of a GUARD entry (R106). -/
inductive Permission where
  | none | read | readWrite
deriving DecidableEq, Repr

/-- Extension kinds (R103). -/
inductive ExtKind where
  | translate | guard | mirror
deriving DecidableEq, Repr

/-- An extension record with its contents (R104, R106, R108). -/
inductive ExtRecord where
  | translate (targetBase : Addr)
  | guard (entries : List (HostId × Permission))
  | mirror (port : TargetId)
deriving DecidableEq, Repr

/-- The fields a MODIFY supplied, each with its new value (R10, R92). `users` has bit n for host Hn. -/
structure ModifyFields where
  base : Option Addr
  limit : Option Addr
  target : Option TargetId
  access : Option Access
  users : Option (BitVec 4)
deriving DecidableEq, Repr

/-- A pending change (R10). -/
inductive PendingChange where
  | modify (fields : ModifyFields)
  | attach (record : ExtRecord)
  | detach (kind : ExtKind)
deriving DecidableEq, Repr

/-- Why a window drains (R10). -/
inductive Purpose where
  | retire | change
deriving DecidableEq, Repr

/-- The states of a window that is not FREE. Purpose and pending change exist only while DRAINING (R10). -/
inductive WindowState where
  | staged
  | live
  | drainRetire
  | drainChange (change : PendingChange)
deriving DecidableEq, Repr

/-- The fields a slot holds while it is not FREE (section 1.2). `users` has bit n for host Hn. -/
structure Window where
  state : WindowState
  base : Addr
  limit : Addr
  target : TargetId
  access : Access
  users : BitVec 4
  owner : Source
  locked : Bool
  chain : List ExtRecord
deriving DecidableEq, Repr

/-- A slot of the directory: `window` is absent in a FREE slot (R4). -/
structure Slot where
  generation : BitVec 8
  count : Nat
  window : Option Window
deriving DecidableEq, Repr

structure Directory where
  slots : Vector Slot Config.slots
  poolFree : Nat
  fallback : Option TargetId
  fallbackCount : Nat
deriving DecidableEq, Repr

/-! ### Forwarding Unit (chapter 2) -/

/-- A request in an ingress queue, with the fields the part reads (R29, R164). -/
inductive Request where
  | post (address : Addr) (data : List Byte)
  | fetch (tag : BitVec 8) (address : Addr) (length : Nat)
deriving DecidableEq, Repr

/-- A waiting mark: the resources that were not free at the attempt (R40). -/
structure WaitMark where
  entry : Bool
  places : PerTarget Bool
deriving DecidableEq, Repr

/-- The mark of a host whose head does not wait. -/
def WaitMark.clear : WaitMark := ⟨false, .replicate false⟩

structure Forwarding where
  ingress : PerHost (List Request)
  waiting : PerHost WaitMark
deriving DecidableEq, Repr

/-! ### Reply Table (chapter 3) -/

/-- The fields of a WAITING entry (R52). `timer` is the length its running reply timer was started with, in 10 µs. -/
structure Waiting where
  host : HostId
  tag : BitVec 8
  session : BitVec 8
  orphan : Bool
  length : Nat
  route : Route
  target : TargetId
  timer : BitVec 16
deriving DecidableEq, Repr

/-- The fields of an ANSWERED entry (R52). `via` is present if the FETCH was forwarded. -/
structure Answered where
  host : HostId
  tag : BitVec 8
  session : BitVec 8
  via : Option (Route × TargetId)
  status : Status
  data : List Byte
deriving DecidableEq, Repr

inductive EntryState where
  | free
  | waiting (w : Waiting)
  | answered (a : Answered)
deriving DecidableEq, Repr

/-- A reply entry; its index is its place in the table (R52). -/
structure Entry where
  epoch : BitVec 6
  state : EntryState
deriving DecidableEq, Repr

structure ReplyTable where
  entries : Vector Entry Config.replyEntries
  position : HostId
deriving DecidableEq, Repr

/-! ### Packets the part holds for sending (R43, R66, R80, R182, R183) -/

/-- A packet of an egress queue. A FETCH is tied to its window through its reply entry, a POST names its route (R151). -/
inductive EgressPacket where
  | fetch (index : Fin Config.replyEntries) (epoch : BitVec 6) (address : Addr) (length : Nat)
  | post (route : Route) (origin : HostId) (address : Addr) (data : List Byte)
deriving DecidableEq, Repr

/-- A packet of a return queue. `entry` names the reply entry that a REPLY stands for; it does not leave the part (R66). -/
inductive ReturnPacket where
  | reply (entry : Fin Config.replyEntries) (tag : BitVec 8) (status : Status) (data : List Byte)
  | orderReply (sequence : Byte) (code : Byte) (status : Status) (results : List Byte)
  | notice (flags : BitVec 12)
  | notification (address : Addr) (value : BitVec 32)
deriving DecidableEq, Repr

/-- Credit classes (R173). -/
inductive CreditClass where
  | request | order | back
deriving DecidableEq, Repr

/-- A unit that leaves the part: START and CREDIT symbols (R176) and packets. -/
inductive WireUnit where
  | start (request order back : Nat)
  | credit (cls : CreditClass) (n : Nat)
  | egress (packet : EgressPacket)
  | back (packet : ReturnPacket)
deriving DecidableEq, Repr

/-! ### Directory Engine (chapters 4, 6 and 7) -/

/-- The states of an order entry (R75). A TAKEN entry names the slot whose drain it waits for (log 18). -/
inductive OrderState where
  | queued
  | taken (slot : Fin Config.slots)
  | answered
deriving DecidableEq, Repr

/-- An entry of an order queue (R73). -/
structure OrderEntry where
  sequence : Byte
  code : Byte
  block : List Byte
  state : OrderState
  silent : Bool
deriving DecidableEq, Repr

/-- A drain job (R118). `timer` is the length its running drain timer was started with, in ms. -/
structure DrainJob where
  handle : Handle
  purpose : Purpose
  mode : Mode
  source : Source
  sequence : Byte
  code : Byte
  timer : BitVec 16
deriving DecidableEq, Repr

/-- A host's rights (R134). -/
inductive Rights where
  | none | view | own
deriving DecidableEq, Repr

/-- An address range [base, limit]. -/
structure Range where
  base : Addr
  limit : Addr
deriving DecidableEq, Repr

structure Engine where
  orders : PerSource (List OrderEntry)
  position : Source
  drains : List DrainJob
  rights : PerHost Rights
  allotment : PerHost (Option Range)
  frozen : Bool
  replyLimit : BitVec 16
  drainLimit : BitVec 16
deriving DecidableEq, Repr

/-! ### Port units (chapters 8 and 9) -/

/-- Link states, STARTING with its two phases (R147, R175). -/
inductive LinkState where
  | down | awaitingStart | answering | up
deriving DecidableEq, Repr

structure Ports where
  link : PerPort LinkState
  held : PerPort Nat
  grantedRequest : PerHost Nat
  grantedOrder : PerSource Nat
  session : PerHost (BitVec 8)
  barredHost : PerHost Bool
  barredTarget : PerTarget Bool
  egress : PerTarget (List EgressPacket)
  egressPosition : PerTarget HostId
  returns : PerSource (List ReturnPacket)
deriving DecidableEq, Repr

/-! ### Event Unit (chapter 10) -/

/-- The notification setting (R183). -/
structure NotifySetting where
  host : Option HostId
  address : Addr
  dataBase : BitVec 32
deriving DecidableEq, Repr

/-- The twelve flags' marks, bit p - 1 for the flag of priority p, and their detail sets, bit n for the port of code n
(R170, R172, R179); the NOTE_N output, true while asserted (R181); the owed marks (R182, R184). -/
structure Events where
  pending : BitVec 12
  enabled : BitVec 12
  details : Vector (BitVec 9) 12
  noteN : Bool
  noticeOwed : Bool
  setting : NotifySetting
  notificationOwed : Bool
deriving DecidableEq, Repr

/-! ### Control (chapter 11) -/

/-- Where the part stands between its supplies and its first links (R178, R194, R195): without supplies; held in reset by
RESET_N low; in start-up; or running, with all nine ports enabled. -/
inductive Phase where
  | unpowered | held | startUp | running
deriving DecidableEq, Repr

/-- The reset cause record (R191). -/
structure ResetCause where
  power : Bool
  pin : Bool
  path : Bool
deriving DecidableEq, Repr

structure Control where
  phase : Phase
  cause : ResetCause
deriving DecidableEq, Repr

/-! ### The whole part -/

/-- The state. `pending` (the commands that wait) and `sent` (the units that have left, oldest first) are the model's own
fields (log 1, log 10). -/
structure State where
  ctl : Control
  dir : Directory
  fwd : Forwarding
  table : ReplyTable
  eng : Engine
  ports : Ports
  events : Events
  pending : List Instr
  sent : List (Port × WireUnit)
deriving DecidableEq, Repr

/-- No command of the part stops it: the spec discards, ignores or answers by a status whatever it does not carry out. -/
inductive Fault where
deriving DecidableEq, Repr

/-- Why a command has no meaning. -/
inductive Refusal where
  /-- A command that has no meaning yet; raised by an arm of exec alone. Safe: nothing is claimed of it. No arm raises it. -/
  | notModelled (mnemonic : String)
deriving DecidableEq, Repr

/-- What a step answers. -/
abbrev Answer := Host.Outcome State Fault Refusal

/-! ### Accessors and updates -/

namespace State

def slot (s : State) (i : Fin Config.slots) : Slot := s.dir.slots[i]

def entry (s : State) (i : Fin Config.replyEntries) : Entry := s.table.entries[i]

def ingress (s : State) (h : HostId) : List Request := s.fwd.ingress.get h

def mark (s : State) (h : HostId) : WaitMark := s.fwd.waiting.get h

def orders (s : State) (src : Source) : List OrderEntry := s.eng.orders.get src

def link (s : State) (p : Port) : LinkState := s.ports.link.get p

def egress (s : State) (t : TargetId) : List EgressPacket := s.ports.egress.get t

def returns (s : State) (src : Source) : List ReturnPacket := s.ports.returns.get src

def setSlot (s : State) (i : Fin Config.slots) (x : Slot) : State :=
  { s with dir := { s.dir with slots := s.dir.slots.set i.val x i.isLt } }

def setPoolFree (s : State) (n : Nat) : State :=
  { s with dir := { s.dir with poolFree := n } }

def setFallback (s : State) (f : Option TargetId) : State :=
  { s with dir := { s.dir with fallback := f } }

def setFallbackCount (s : State) (n : Nat) : State :=
  { s with dir := { s.dir with fallbackCount := n } }

def setIngress (s : State) (h : HostId) (q : List Request) : State :=
  { s with fwd := { s.fwd with ingress := s.fwd.ingress.set h q } }

def setMark (s : State) (h : HostId) (m : WaitMark) : State :=
  { s with fwd := { s.fwd with waiting := s.fwd.waiting.set h m } }

def setEntry (s : State) (i : Fin Config.replyEntries) (e : Entry) : State :=
  { s with table := { s.table with entries := s.table.entries.set i.val e i.isLt } }

def setEntryPosition (s : State) (h : HostId) : State :=
  { s with table := { s.table with position := h } }

def setOrders (s : State) (src : Source) (q : List OrderEntry) : State :=
  { s with eng := { s.eng with orders := s.eng.orders.set src q } }

def setArbiter (s : State) (src : Source) : State :=
  { s with eng := { s.eng with position := src } }

def setDrains (s : State) (js : List DrainJob) : State :=
  { s with eng := { s.eng with drains := js } }

def setLink (s : State) (p : Port) (l : LinkState) : State :=
  { s with ports := { s.ports with link := s.ports.link.set p l } }

def setHeld (s : State) (p : Port) (n : Nat) : State :=
  { s with ports := { s.ports with held := s.ports.held.set p n } }

def setGrantedRequest (s : State) (h : HostId) (n : Nat) : State :=
  { s with ports := { s.ports with grantedRequest := s.ports.grantedRequest.set h n } }

def setGrantedOrder (s : State) (src : Source) (n : Nat) : State :=
  { s with ports := { s.ports with grantedOrder := s.ports.grantedOrder.set src n } }

def setSession (s : State) (h : HostId) (n : BitVec 8) : State :=
  { s with ports := { s.ports with session := s.ports.session.set h n } }

def setEgress (s : State) (t : TargetId) (q : List EgressPacket) : State :=
  { s with ports := { s.ports with egress := s.ports.egress.set t q } }

def setEgressPosition (s : State) (t : TargetId) (h : HostId) : State :=
  { s with ports := { s.ports with egressPosition := s.ports.egressPosition.set t h } }

def setReturns (s : State) (src : Source) (q : List ReturnPacket) : State :=
  { s with ports := { s.ports with returns := s.ports.returns.set src q } }

def setEvents (s : State) (e : Events) : State :=
  { s with events := e }

/-- A unit leaves the part on a port (R161). -/
def send (s : State) (p : Port) (u : WireUnit) : State :=
  { s with sent := s.sent ++ [(p, u)] }

/-- The machine right after power-on with RESET_N high: every block at its power-on value (R26, R51, R71, R77, R116, R133,
R134, R136, R144, R160, R178, R180, R189, R195), start-up begun (log 6). -/
def reset : State where
  ctl := { phase := .startUp, cause := ⟨true, false, false⟩ }
  dir := { slots := .replicate _ ⟨0, 0, none⟩, poolFree := Config.poolRecords, fallback := none, fallbackCount := 0 }
  fwd := { ingress := .replicate [], waiting := .replicate .clear }
  table := { entries := .replicate _ ⟨0, .free⟩, position := .h3 }
  eng :=
    { orders := .replicate [], position := .host .h3, drains := [], rights := .replicate .none,
      allotment := .replicate none, frozen := false, replyLimit := Config.defaultReplyLimit,
      drainLimit := Config.defaultDrainLimit }
  ports :=
    { link := .replicate .down, held := .replicate 0, grantedRequest := .replicate 0, grantedOrder := .replicate 0,
      session := .replicate 0, barredHost := .replicate false, barredTarget := .replicate false,
      egress := .replicate [], egressPosition := .replicate .h3, returns := .replicate [] }
  events :=
    { pending := 1, enabled := 1, details := .replicate _ 0, noteN := true, noticeOwed := true,
      setting := ⟨none, 0, 0⟩, notificationOwed := false }
  pending := []
  sent := []

end State

end Sys2Proof.Machine
end

