-- ==== Sys2Proof/Machine/Wire.lean ====
section
/-! DEFINITION. The wire forms of the Arnolit link: byte order (R161), check value (R162), codes (R163, R166, R170), packet
and symbol layouts (R164, R165, R173), and the byte form of result blocks (R172). -/

namespace Sys2Proof.Machine

/-- The `n` low bytes of a number, most significant first (R161). -/
def beBytes : Nat → Nat → List Byte
  | 0, _ => []
  | n + 1, v => BitVec.ofNat 8 (v >>> (8 * n)) :: beBytes n v

/-- The number that bytes sent most significant first stand for (R161). -/
def beNat (bs : List Byte) : Nat := bs.foldl (fun acc b => acc * 256 + b.toNat) 0

/-! ### Check value (R162) -/

/-- `n` bit steps of the check register with generator x^16 + x^12 + x^5 + 1. -/
def crcBits : Nat → BitVec 16 → BitVec 16
  | 0, r => r
  | n + 1, r => crcBits n (if r.msb then (r <<< 1) ^^^ 0x1021 else r <<< 1)

/-- One byte enters, most significant bit first. -/
def crcByte (r : BitVec 16) (b : Byte) : BitVec 16 := crcBits 8 (r ^^^ (b.setWidth 16 <<< 8))

/-- The check value of bytes in the order they are sent: preset FFFFh, no final inversion. -/
def crc16 (bs : List Byte) : BitVec 16 := bs.foldl crcByte 0xFFFF

/-! ### Codes -/

/-- Packet kind codes (R163). -/
def kindPost : Byte := 0x01

def kindFetch : Byte := 0x02

def kindReply : Byte := 0x03

def kindOrder : Byte := 0x04

def kindOrderReply : Byte := 0x05

def kindNotice : Byte := 0x06

/-- Port codes (R166). -/
def portCode : Port → Byte
  | .host h => BitVec.ofNat 8 h.index
  | .target t => BitVec.ofNat 8 (4 + t.index)
  | .mgmt => 0x08

/-- The code for "none" (R166). -/
def noPortCode : Byte := 0x0F

/-- The host a port code names, if it names one. -/
def hostOfCode (b : Byte) : Option HostId := HostId.all.find? fun h => portCode (.host h) == b

/-- The target a port code names, if it names one. -/
def targetOfCode (b : Byte) : Option TargetId := TargetId.all.find? fun t => portCode (.target t) == b

def optionPortCode (p : Option Port) : Byte := (p.map portCode).getD noPortCode

/-- Status codes (R166). -/
def statusCode : Status → Byte
  | .done => 0x00
  | .targetError => 0x01
  | .timeout => 0x02
  | .portDown => 0x03
  | .aborted => 0x04
  | .noWindow => 0x05
  | .straddle => 0x06
  | .closing => 0x07
  | .denied => 0x08
  | .barred => 0x09
  | .noRights => 0x10
  | .mgmtOnly => 0x11
  | .frozen => 0x12
  | .notFound => 0x13
  | .stale => 0x14
  | .notOwner => 0x15
  | .locked => 0x16
  | .wrongState => 0x17
  | .busy => 0x18
  | .badOperand => 0x19
  | .outsideAllotment => 0x1A
  | .overlap => 0x1B
  | .duplicateKind => 0x1C
  | .noSlot => 0x1D
  | .noSpace => 0x1E
  | .drainExpired => 0x1F
  | .unknownOrder => 0x20

/-- Field codes (R170). -/
def accessCode : Access → Byte
  | .read => 0x01
  | .write => 0x02
  | .readWrite => 0x03

def permissionCode : Permission → Byte
  | .none => 0x00
  | .read => 0x01
  | .readWrite => 0x03

def modeCode : Mode → Byte
  | .gentle => 0x00
  | .force => 0x01

def kindCode : ExtKind → Byte
  | .translate => 0x01
  | .guard => 0x02
  | .mirror => 0x03

def purposeCode : Purpose → Byte
  | .retire => 0x01
  | .change => 0x02

def rightsCode : Rights → Byte
  | .none => 0x00
  | .view => 0x01
  | .own => 0x02

/-- Both phases of STARTING are reported as STARTING (R190). -/
def linkCode : LinkState → Byte
  | .down => 0x00
  | .awaitingStart => 0x01
  | .answering => 0x01
  | .up => 0x02

def windowStateCode : WindowState → Byte
  | .staged => 0x01
  | .live => 0x02
  | .drainRetire => 0x03
  | .drainChange _ => 0x03

def markCode (b : Bool) : Byte := if b then 0x01 else 0x00

/-! ### Packets and symbols -/

/-- The 16 header bytes (R164). -/
def headerBytes (kind origin : Byte) (length tag : BitVec 16) (status orderCode : Byte) (address : Addr)
    (unused : BitVec 16) : List Byte :=
  [kind, origin] ++ beBytes 2 length.toNat ++ beBytes 2 tag.toNat ++ [status, orderCode] ++ beBytes 6 address.toNat
    ++ beBytes 2 unused.toNat

/-- Bytes followed by their check value (R161, R162). -/
def withCheck (bs : List Byte) : List Byte := bs ++ beBytes 2 (crc16 bs).toNat

/-- The check value received matches the one computed over header and payload (R162). A cut packet has none that could. -/
def checkMatches (kind : Byte) (f : Frame) : Bool :=
  !f.cut && crc16 (headerBytes kind f.origin f.length f.tag f.status f.orderCode f.address f.unused ++ f.payload) == f.check

/-- The same frame with the check value that its sender computes (R162). -/
def sealFrame (kind : Byte) (f : Frame) : Frame :=
  { f with check := crc16 (headerBytes kind f.origin f.length f.tag f.status f.orderCode f.address f.unused ++ f.payload) }

/-- The six bytes of a symbol before its check value (R173). -/
def symbolBytes (code : Byte) (args : BitVec 40) : List Byte := code :: beBytes 5 args.toNat

def symbolCheckMatches (code : Byte) (sym : Symbol) : Bool := crc16 (symbolBytes code sym.args) == sym.check

/-- A symbol with the check value that its sender computes (R162). -/
def sealSymbol (code : Byte) (args : BitVec 40) : Symbol := ⟨args, crc16 (symbolBytes code args)⟩

/-- Symbol codes (R173). -/
def symStart : Byte := 0x01

def symStop : Byte := 0x02

def symRestart : Byte := 0x03

def symCredit : Byte := 0x04

/-- The three grants of a START, 12 bits each, then 4 bits of zero (R173). -/
def startArgs (request order back : Nat) : BitVec 40 :=
  BitVec.ofNat 12 request ++ BitVec.ofNat 12 order ++ BitVec.ofNat 12 back ++ (0 : BitVec 4)

/-- The grants a START carries (R173). -/
def symbolGrant (sym : Symbol) : CreditClass → Nat
  | .request => (sym.args.extractLsb' 28 12).toNat
  | .order => (sym.args.extractLsb' 16 12).toNat
  | .back => (sym.args.extractLsb' 4 12).toNat

/-- Credit class codes (R173). -/
def classCode : CreditClass → Byte
  | .request => 0x01
  | .order => 0x02
  | .back => 0x03

/-- The five bytes of a CREDIT after its code: class, count n, and three bytes to which R173 gives no contents, which are sent
as zero (log 27). -/
def creditArgs (cls : CreditClass) (n : Nat) : BitVec 40 :=
  classCode cls ++ BitVec.ofNat 8 n ++ (0 : BitVec 24)

/-- The class and the count n that a CREDIT carries, where its class code is 01h to 03h and n is 1 to 63 (R173). Its bytes 3 to
5 are not examined (log 27). -/
def symbolCredit (sym : Symbol) : Option (CreditClass × Nat) :=
  let n := (sym.args.extractLsb' 24 8).toNat
  if 1 ≤ n ∧ n ≤ 63 then
    match [CreditClass.request, .order, .back].find? fun c => classCode c == sym.args.extractLsb' 32 8 with
    | some c => some (c, n)
    | none => none
  else none

/-- The downstream tag: entry index in bits 11 to 6, epoch in bits 5 to 0 (R55, R164). -/
def downstreamTag (index : Fin Config.replyEntries) (epoch : BitVec 6) : BitVec 16 :=
  (0 : BitVec 4) ++ BitVec.ofNat 6 index.val ++ epoch

/-- The bytes of a packet to a target (R43, R164, R165). A POST carries its origin host's port code, and a FETCH, to which
R164's table gives no origin, carries zero there (log 14). -/
def EgressPacket.bytes : EgressPacket → List Byte
  | .fetch i e a n =>
    withCheck (headerBytes kindFetch 0 (BitVec.ofNat 16 n) (downstreamTag i e) 0 0 a 0)
  | .post _ h a d =>
    withCheck (headerBytes kindPost (portCode (.host h)) (BitVec.ofNat 16 d.length) 0 0 0 a 0 ++ d)

/-- The bytes of a packet to a host or M (R164, R165, R172). They are the part's own packets, whose origin is "none" (R165;
log 14). -/
def ReturnPacket.bytes : ReturnPacket → List Byte
  | .reply _ tag st d =>
    withCheck (headerBytes kindReply noPortCode (BitVec.ofNat 16 d.length) (tag.setWidth 16) (statusCode st) 0 0 0 ++ d)
  | .orderReply q c st rs =>
    withCheck (headerBytes kindOrderReply noPortCode 0 (q.setWidth 16) (statusCode st) c 0 0 ++ rs)
  | .notice flags =>
    withCheck (headerBytes kindNotice noPortCode 0 0 0 0 0 0 ++ beBytes 2 flags.toNat)
  | .notification a v =>
    withCheck (headerBytes kindPost noPortCode 4 0 0 0 a 0 ++ beBytes 4 v.toNat)

/-- The bytes of a unit between its delimiters (R161). -/
def WireUnit.bytes : WireUnit → List Byte
  | .start q o b => withCheck (symbolBytes symStart (startArgs q o b))
  | .credit c n => withCheck (symbolBytes symCredit (creditArgs c n))
  | .egress p => p.bytes
  | .back p => p.bytes

/-! ### Result blocks (R172) -/

def handleBytes (h : Handle) : List Byte := [BitVec.ofNat 8 h.slot.val, h.generation]

def addrBytes (a : Addr) : List Byte := beBytes 6 a.toNat

def recordBytes : ExtRecord → List Byte
  | .translate b => kindCode .translate :: addrBytes b
  | .guard es =>
    [kindCode .guard, BitVec.ofNat 8 es.length] ++ es.flatMap fun e => [portCode (.host e.1), permissionCode e.2]
  | .mirror t => [kindCode .mirror, portCode (.target t)]

/-- Bit positions of the supplied marks (R170). -/
def ModifyFields.marks (f : ModifyFields) : Byte :=
  markCode f.base.isSome ||| markCode f.limit.isSome <<< 1 ||| markCode f.target.isSome <<< 2
    ||| markCode f.access.isSome <<< 3 ||| markCode f.users.isSome <<< 4

def optionBytes {α : Type} (enc : α → List Byte) : Option α → List Byte
  | none => []
  | some x => enc x

/-- A pending change: form byte, then its contents (R172). -/
def changeBytes : PendingChange → List Byte
  | .modify f =>
    [0x01, f.marks] ++ optionBytes addrBytes f.base ++ optionBytes addrBytes f.limit
      ++ optionBytes (fun t => [portCode (.target t)]) f.target ++ optionBytes (fun a => [accessCode a]) f.access
      ++ optionBytes (fun u => [u.setWidth 8]) f.users
  | .attach r => 0x02 :: recordBytes r
  | .detach k => [0x03, kindCode k]

end Sys2Proof.Machine
end

