-- ==== Sys2Proof/Machine/Flags.lean ====
section
/-! DEFINITION. The Event Unit (chapter 10): setting, clearing and enabling flags, the NOTE_N line, and the occasions on which
a NOTICE goes to M and a notification write to a host. -/

namespace Sys2Proof.Machine

/-- The twelve event flags in priority order (R179). -/
inductive Flag where
  | resetSeen | targetDown | hostDown | postsLost | replyTimeout | drainExpired | forcedRemoval | strayReply
  | postRefused | mirrorSkipped | protocol | linkUp
deriving DecidableEq, Repr

/-- Place of a flag in a flag set: bit p - 1 for priority p (R170, R179). -/
def Flag.bit : Flag → Fin 12
  | .resetSeen => 0
  | .targetDown => 1
  | .hostDown => 2
  | .postsLost => 3
  | .replyTimeout => 4
  | .drainExpired => 5
  | .forcedRemoval => 6
  | .strayReply => 7
  | .postRefused => 8
  | .mirrorSkipped => 9
  | .protocol => 10
  | .linkUp => 11

/-- The set that holds one flag. -/
def Flag.mask (f : Flag) : BitVec 12 := (1 : BitVec 12) <<< f.bit.val

/-- The set of ports that holds one port: bit n for the port of code n (R172). -/
def portMask (p : Port) : BitVec 9 := (1 : BitVec 9) <<< (portCode p).toNat

/-- The flags that are both pending and enabled (R181). -/
def activeFlags (e : Events) : BitVec 12 := e.pending &&& e.enabled

/-- NOTE_N is asserted exactly while some flag is both pending and enabled (R181). -/
def driveNote (e : Events) : Events := { e with noteN := activeFlags e != 0 }

/-- A flag becomes pending, with ports added to its detail set (R179). -/
def raiseFlag (f : Flag) (ports : BitVec 9) (e : Events) : Events :=
  driveNote
    { e with
      pending := e.pending ||| f.mask
      details := e.details.set f.bit.val (e.details[f.bit] ||| ports) f.bit.isLt }

/-- Pending marks and detail sets of the flags of a set are cleared (R186). -/
def clearFlags (fs : BitVec 12) (e : Events) : Events :=
  driveNote
    { e with
      pending := e.pending &&& ~~~fs
      details := Vector.ofFn fun i : Fin 12 => if fs.getLsbD i.val then 0 else e.details[i] }

/-- The whole enable set is written (R187). -/
def enableFlags (fs : BitVec 12) (e : Events) : Events := driveNote { e with enabled := fs }

/-- A block sets a flag with one port as detail (R179). -/
def setFlag (f : Flag) (p : Port) (s : State) : State := s.setEvents (raiseFlag f (portMask p) s.events)

/-- A block sets a flag that has no detail set (R179). -/
def setPlainFlag (f : Flag) (s : State) : State := s.setEvents (raiseFlag f 0 s.events)

/-- PROTOCOL is set with the port as detail (R148, R168, R173). -/
def setProtocol (p : Port) (s : State) : State := setFlag .protocol p s

/-- A packet enters the tail of a return queue (R152). -/
def pushReturn (src : Source) (pkt : ReturnPacket) (s : State) : State :=
  s.setReturns src (s.returns src ++ [pkt])

/-- An event is an occasion when some flag has become pending and enabled by it (R179; log 21). -/
def isOccasion (before s : State) : Bool :=
  (activeFlags s.events &&& ~~~activeFlags before.events) != 0

def isNotice : ReturnPacket → Bool
  | .notice _ => true
  | _ => false

def isNotification : ReturnPacket → Bool
  | .notification _ _ => true
  | _ => false

/-- The priority number of the highest-priority flag of a set: the smallest number in it (R183); 0 for the empty set. -/
def topPriority (fs : BitVec 12) : Nat :=
  match (List.range 12).find? fun i => fs.getLsbD i with
  | some i => i + 1
  | none => 0

/-- A NOTICE composed from the flags as they stand (R182). -/
def composeNotice (s : State) : ReturnPacket := .notice (activeFlags s.events)

/-- A notification POST composed from the flags as they stand (R172, R183). -/
def composeNotification (s : State) : ReturnPacket :=
  .notification s.events.setting.address
    (s.events.setting.dataBase + BitVec.ofNat 32 (topPriority (activeFlags s.events)))

def setNoticeOwed (b : Bool) (s : State) : State := s.setEvents { s.events with noticeOwed := b }

def setNotificationOwed (b : Bool) (s : State) : State := s.setEvents { s.events with notificationOwed := b }

/-- M's side of an event's end (R182). `prompted`: M became UP or a NOTICE was sent on its link, so that the owed mark is
acted on. The two causes together place a single NOTICE. -/
def notifyMgmt (occasion prompted : Bool) (s : State) : State :=
  if prompted && s.events.noticeOwed then
    let s := setNoticeOwed false s
    if activeFlags s.events != 0 then pushReturn .mgmt (composeNotice s) s else s
  else if occasion then
    if s.link .mgmt = .up ∧ !(s.returns .mgmt).any isNotice then pushReturn .mgmt (composeNotice s) s
    else setNoticeOwed true s
  else s

/-- The notified host's side of an event's end (R183, R184). `prompted`: the host became UP or a notification POST was sent on
its link. The two causes together place a single notification. -/
def notifyHost (h : HostId) (occasion prompted : Bool) (s : State) : State :=
  let barred := s.ports.barredHost.get h
  if prompted && s.events.notificationOwed then
    let s := setNotificationOwed false s
    if !barred && activeFlags s.events != 0 then pushReturn (.host h) (composeNotification s) s else s
  else if occasion && !barred then
    if s.link (.host h) = .up ∧ !(s.returns (.host h)).any isNotification then
      pushReturn (.host h) (composeNotification s) s
    else setNotificationOwed true s
  else s

/-- The end of an event: NOTICE and notification are composed once, after every flag of the event has been set, and enter
their queues behind every other packet of the event (R179). `prompt` is the port at which owed marks are acted on, if the
event made it UP or sent a notice or notification on it. -/
def notify (before : State) (prompt : Option Port) (s : State) : State :=
  let occasion := isOccasion before s
  let s := notifyMgmt occasion (prompt = some .mgmt) s
  match s.events.setting.host with
  | some h => notifyHost h occasion (prompt = some (.host h)) s
  | none => s

end Sys2Proof.Machine
end

