-- ==== Sys2Proof/Machine/Ops.lean ====
section
/-! DEFINITION. The named operations that the blocks share: credits going back, in-flight counts, reply entries leaving WAITING
and becoming FREE, slots becoming FREE, and order entries being answered. -/

namespace Sys2Proof.Machine

/-- The ports are enabled: start-up has ended and neither reset nor loss of supply has come since (R178, R194). -/
def isRunning (s : State) : Bool := s.ctl.phase == .running

/-- The link of a port is UP (R148). -/
def isUp (p : Port) (s : State) : Bool := s.link p == .up

/-- A target is UP and not barred (R24, R38). -/
def targetOpen (t : TargetId) (s : State) : Bool := isUp (.target t) s && !s.ports.barredTarget.get t

/-! ### Credits (R150, R174) -/

/-- `n` REQUEST credits go back to a host in one CREDIT symbol; none is sent for n = 0 (R30, R51, R174). -/
def returnRequestCredits (h : HostId) (n : Nat) (s : State) : State :=
  if n = 0 then s
  else (s.setGrantedRequest h (s.ports.grantedRequest.get h + n)).send (.host h) (.credit .request n)

/-- One ORDER credit goes back to a source (R74, R75, R174). -/
def returnOrderCredit (src : Source) (s : State) : State :=
  (s.setGrantedOrder src (s.ports.grantedOrder.get src + 1)).send src.port (.credit .order 1)

/-- The partner has spent one REQUEST credit (R150). -/
def spendRequestCredit (h : HostId) (s : State) : State :=
  s.setGrantedRequest h (s.ports.grantedRequest.get h - 1)

/-- The partner has spent one ORDER credit (R150). -/
def spendOrderCredit (src : Source) (s : State) : State :=
  s.setGrantedOrder src (s.ports.grantedOrder.get src - 1)

/-- The part sends a packet on a port against one held credit (R150, R174). -/
def sendAgainstCredit (p : Port) (u : WireUnit) (s : State) : State :=
  (s.setHeld p (s.ports.held.get p - 1)).send p u

/-- The head of an ingress queue is taken, and its REQUEST credit goes back (R30). -/
def takeHead (h : HostId) (s : State) : State :=
  returnRequestCredits h 1 (s.setIngress h (s.ingress h).tail)

/-! ### In-flight counts (R21) -/

/-- The count of a window or of the fallback route rises by one. -/
def raiseCount (r : Route) (s : State) : State :=
  match r with
  | .window h => s.setSlot h.slot { s.slot h.slot with count := (s.slot h.slot).count + 1 }
  | .fallback => s.setFallbackCount (s.dir.fallbackCount + 1)

/-- The count of a window or of the fallback route falls by one. -/
def lowerCount (r : Route) (s : State) : State :=
  match r with
  | .window h => s.setSlot h.slot { s.slot h.slot with count := (s.slot h.slot).count - 1 }
  | .fallback => s.setFallbackCount (s.dir.fallbackCount - 1)

/-- The departure of an egress packet lowers the count that a POST names; a FETCH names none (R21, R151). -/
def lowerCountOf (pkt : EgressPacket) (s : State) : State :=
  match pkt with
  | .post r _ _ _ => lowerCount r s
  | .fetch _ _ _ _ => s

/-- A packet enters the tail of an egress queue (R151). -/
def pushEgress (t : TargetId) (pkt : EgressPacket) (s : State) : State :=
  s.setEgress t (s.egress t ++ [pkt])

/-! ### Reply entries -/

def Entry.isFree (e : Entry) : Bool := e.state == .free

/-- An entry becomes FREE: its epoch advances by one modulo 64 and its other fields become absent (R55, R65). -/
def freeEntry (i : Fin Config.replyEntries) (s : State) : State :=
  s.setEntry i ⟨(s.entry i).epoch + 1, .free⟩

/-- The packet is the FETCH of an entry (R55, R56). -/
def isFetchOf (i : Fin Config.replyEntries) : EgressPacket → Bool
  | .fetch j _ _ _ => j == i
  | .post _ _ _ _ => false

/-- The FETCH of an entry is removed from its egress queue if it is still there; the others keep their order (R56). -/
def removeFetch (t : TargetId) (i : Fin Config.replyEntries) (s : State) : State :=
  s.setEgress t ((s.egress t).filter fun pkt => !isFetchOf i pkt)

/-- An entry becomes ANSWERED and its REPLY enters the host's return queue (R44, R61, R66). -/
def answerEntry (i : Fin Config.replyEntries) (a : Answered) (s : State) : State :=
  pushReturn (.host a.host) (.reply i a.tag a.status a.data) (s.setEntry i { s.entry i with state := .answered a })

/-- A WAITING entry leaves WAITING with a reply: its timer stops, its FETCH leaves the egress queue, its count falls, and it
becomes ANSWERED, or FREE if it is an orphan (R61, R68). An entry that is not WAITING is passed over. -/
def leaveWaiting (i : Fin Config.replyEntries) (status : Status) (data : List Byte) (s : State) : State :=
  match (s.entry i).state with
  | .waiting w =>
    let s := lowerCount w.route (removeFetch w.target i s)
    if w.orphan then freeEntry i s
    else answerEntry i ⟨w.host, w.tag, w.session, some (w.route, w.target), status, data⟩ s
  | _ => s

/-- Every WAITING entry that a test picks leaves WAITING with one status and no data, in increasing index order (R63, R64). -/
def leaveWaitingAll (picks : Waiting → Bool) (status : Status) (s : State) : State :=
  (List.finRange Config.replyEntries).foldl
    (fun s i =>
      match (s.entry i).state with
      | .waiting w => if picks w then leaveWaiting i status [] s else s
      | _ => s) s

/-- The POSTs that a test picks are removed from one egress queue, each lowering its count; the others keep their order
(R126, R157, R159). -/
def removePosts (picks : EgressPacket → Bool) (t : TargetId) (s : State) : State :=
  ((s.egress t).filter picks).foldl (fun s pkt => lowerCountOf pkt s)
    (s.setEgress t ((s.egress t).filter fun pkt => !picks pkt))

/-! ### Slots and chains -/

def ExtRecord.kind : ExtRecord → ExtKind
  | .translate _ => .translate
  | .guard _ => .guard
  | .mirror _ => .mirror

/-- A slot becomes FREE: its chain records go back to the pool, its fields become absent and its generation advances (R16). -/
def freeSlot (i : Fin Config.slots) (s : State) : State :=
  match (s.slot i).window with
  | some w =>
    (s.setSlot i { s.slot i with generation := (s.slot i).generation + 1, window := none }).setPoolFree
      (s.dir.poolFree + w.chain.length)
  | none => s

/-- The fields of a window change; its slot keeps generation and count. -/
def setWindow (i : Fin Config.slots) (w : Window) (s : State) : State :=
  s.setSlot i { s.slot i with window := some w }

/-- A MODIFY's supplied fields take their new values together (R94, R123). -/
def applyModify (f : ModifyFields) (w : Window) : Window :=
  { w with
    base := f.base.getD w.base
    limit := f.limit.getD w.limit
    target := f.target.getD w.target
    access := f.access.getD w.access
    users := f.users.getD w.users }

/-- The record of a kind leaves a chain and the others close up (R103, R114). -/
def dropKind (k : ExtKind) (chain : List ExtRecord) : List ExtRecord := chain.filter fun r => r.kind != k

/-- A change takes effect on a window: fields, appended record, or removed record, which goes back to the pool
(R13, R112, R114, R123). The window's state is left to the caller. -/
def applyChange (i : Fin Config.slots) (c : PendingChange) (w : Window) (s : State) : State :=
  match c with
  | .modify f => setWindow i (applyModify f w) s
  | .attach r => setWindow i { w with chain := w.chain ++ [r] } s
  | .detach k =>
    (setWindow i { w with chain := dropKind k w.chain } s).setPoolFree
      (s.dir.poolFree + (w.chain.length - (dropKind k w.chain).length))

/-! ### Order entries -/

/-- The first entry that a test picks is replaced. -/
def updateFirst {α : Type} (picks : α → Bool) (f : α → α) : List α → List α
  | [] => []
  | x :: xs => if picks x then f x :: xs else x :: updateFirst picks f xs

def isQueued (e : OrderEntry) : Bool := e.state == .queued

def isTakenFor (i : Fin Config.slots) (e : OrderEntry) : Bool := e.state == .taken i

/-- The entry whose ORDER_REPLY carries a sequence number (R74, R75). -/
def isAnsweredAs (q : Byte) (e : OrderEntry) : Bool := e.state == .answered && !e.silent && e.sequence == q

/-- Places an order queue has in use; silent entries take none (R76). -/
def placesUsed (q : List OrderEntry) : Nat := q.countP fun e => !e.silent

/-- The oldest QUEUED entry of a source is answered: it becomes ANSWERED and its ORDER_REPLY enters the return queue
(R79, R80). -/
def answerOrder (src : Source) (e : OrderEntry) (status : Status) (results : List Byte) (s : State) : State :=
  pushReturn src (.orderReply e.sequence e.code status results)
    (s.setOrders src (updateFirst isQueued (fun e => { e with state := .answered }) (s.orders src)))

/-- The oldest QUEUED entry of a source becomes TAKEN for the drain of a window (R79, R119). -/
def takeOrder (src : Source) (i : Fin Config.slots) (s : State) : State :=
  s.setOrders src (updateFirst isQueued (fun e => { e with state := .taken i }) (s.orders src))

/-- The drain of a window has ended: its TAKEN entry becomes ANSWERED with its reply queued, or is removed if it is silent
(R79, R122, R125). -/
def closeOrder (src : Source) (i : Fin Config.slots) (status : Status) (s : State) : State :=
  match (s.orders src).find? (isTakenFor i) with
  | some e =>
    if e.silent then s.setOrders src ((s.orders src).eraseP (isTakenFor i))
    else
      pushReturn src (.orderReply e.sequence e.code status [])
        (s.setOrders src (updateFirst (isTakenFor i) (fun e => { e with state := .answered }) (s.orders src)))
  | none => s

end Sys2Proof.Machine
end

