-- ==== Sys2Proof/Machine/Lookup.lean ====
section
/-! DEFINITION. Reserved ranges and the address questions of the Window Directory (R17 to R20), and the lookup checks of the
Forwarding Unit (R33 to R38). -/

namespace Sys2Proof.Machine

/-! ### Reserved ranges -/

/-- A range of byte addresses, both ends included. -/
structure Span where
  first : Nat
  last : Nat
deriving DecidableEq, Repr

def Span.holds (p : Span) (a : Nat) : Bool := p.first ≤ a && a ≤ p.last

def Span.meets (p q : Span) : Bool := p.first ≤ q.last && q.first ≤ p.last

/-- The current range of a window (R5). -/
def currentSpan (w : Window) : Span := ⟨w.base.toNat, w.limit.toNat⟩

/-- The range a window has after a MODIFY: each bound supplied, or else the current one (R5, R17). -/
def modifiedSpan (f : ModifyFields) (w : Window) : Span := ⟨(f.base.getD w.base).toNat, (f.limit.getD w.limit).toNat⟩

/-- The MODIFY supplies a bound. -/
def ModifyFields.movesRange (f : ModifyFields) : Bool := f.base.isSome || f.limit.isSome

/-- The pieces of a window's reserved range (R17). -/
def reserved (w : Window) : List Span :=
  match w.state with
  | .drainChange (.modify f) =>
    if f.movesRange then [currentSpan w, modifiedSpan f w] else [currentSpan w]
  | _ => [currentSpan w]

/-- The pieces a slot reserves; a FREE slot reserves nothing (R17). -/
def slotReserved (x : Slot) : List Span :=
  match x.window with
  | some w => reserved w
  | none => []

/-- The first address question: the slot whose reserved range holds a byte address (R19). -/
def findSlot (s : State) (a : Nat) : Option (Fin Config.slots) :=
  (List.finRange Config.slots).find? fun i => (slotReserved (s.slot i)).any fun p => p.holds a

/-- The second address question: a range meets some reserved range (R19). -/
def meetsReserved (s : State) (q : Span) : Bool :=
  (List.finRange Config.slots).any fun i => (slotReserved (s.slot i)).any fun p => p.meets q

/-- A range meets the reserved range of a slot other than one (R18). -/
def overlapsOther (s : State) (except : Option (Fin Config.slots)) (q : Span) : Bool :=
  (List.finRange Config.slots).any fun i => except != some i && (slotReserved (s.slot i)).any fun p => p.meets q

/-! ### The records of a chain -/

def translateBase (chain : List ExtRecord) : Option Addr :=
  chain.findSome? fun r => match r with
    | .translate b => some b
    | _ => none

def guardEntries (chain : List ExtRecord) : List (HostId × Permission) :=
  (chain.findSome? fun r => match r with
    | .guard es => some es
    | _ => none).getD []

def mirrorPort (chain : List ExtRecord) : Option TargetId :=
  chain.findSome? fun r => match r with
    | .mirror t => some t
    | _ => none

/-- The permission a GUARD record of the chain gives a host, if it lists it (R107). -/
def guardPermission (chain : List ExtRecord) (h : HostId) : Option Permission :=
  ((guardEntries chain).find? fun e => e.1 == h).map Prod.snd

/-! ### The lookup -/

/-- The two request kinds. -/
inductive RequestKind where
  | post | fetch
deriving DecidableEq, Repr

def Request.kind : Request → RequestKind
  | .post _ _ => .post
  | .fetch _ _ _ => .fetch

def Request.address : Request → Addr
  | .post a _ => a
  | .fetch _ a _ => a

def Request.length : Request → Nat
  | .post _ d => d.length
  | .fetch _ _ n => n

/-- A request's bytes, from its first to its last (section 6 of 00_scope.md). -/
def Request.span (r : Request) : Span := ⟨r.address.toNat, r.address.toNat + r.length - 1⟩

/-- The access of a window serves a kind (R6). -/
def accessServes : Access → RequestKind → Bool
  | .readWrite, _ => true
  | .read, .fetch => true
  | .read, .post => false
  | .write, .post => true
  | .write, .fetch => false

/-- A GUARD permission admits a kind (R37). -/
def permissionAdmits : Permission → RequestKind → Bool
  | .none, _ => false
  | .read, .fetch => true
  | .read, .post => false
  | .readWrite, _ => true

/-- The fifth check: a GUARD entry for the host decides alone, or else users and access (R37, R107). -/
def windowAdmits (w : Window) (h : HostId) (k : RequestKind) : Bool :=
  match guardPermission w.chain h with
  | some p => permissionAdmits p k
  | none => w.users.getLsbD h.index && accessServes w.access k

/-- The forwarded address: the request's own, or the target base plus its offset from the window's base (R43, R105). -/
def forwardedAddress (w : Window) (a : Addr) : Addr :=
  match translateBase w.chain with
  | some b => b + (a - w.base)
  | none => a

/-- Where a request is to be forwarded. -/
structure Hop where
  route : Route
  target : TargetId
  address : Addr
  /-- The MIRROR port of the window's chain, if there is one. -/
  mirror : Option TargetId
deriving DecidableEq, Repr

/-- The outcome of the lookup checks. -/
inductive Verdict where
  | refused (status : Status)
  | forward (hop : Hop)
deriving DecidableEq, Repr

/-- A request in unclaimed space is decided by the fallback route as it stands (R24, R34). -/
def lookupFallback (s : State) (a : Addr) : Verdict :=
  match s.dir.fallback with
  | none => .refused .noWindow
  | some t => if targetOpen t s then .forward ⟨.fallback, t, a, none⟩ else .refused .portDown

/-- The third to sixth checks, on the window found (R35 to R38). -/
def lookupWindow (s : State) (i : Fin Config.slots) (w : Window) (h : HostId) (r : Request) : Verdict :=
  match w.state with
  | .staged => .refused .noWindow
  | .drainRetire => .refused .closing
  | .drainChange _ => .refused .closing
  | .live =>
    if r.span.last > w.limit.toNat then .refused .straddle
    else if !windowAdmits w h r.kind then .refused .denied
    else if !targetOpen w.target s then .refused .portDown
    else .forward ⟨.window ⟨i, (s.slot i).generation⟩, w.target, forwardedAddress w r.address, mirrorPort w.chain⟩

/-- The six lookup checks in their order; the first that refuses gives the status (section 2.3). -/
def lookup (s : State) (h : HostId) (r : Request) : Verdict :=
  if s.ports.barredHost.get h then .refused .barred
  else
    match findSlot s r.span.first with
    | some i =>
      match (s.slot i).window with
      | some w => lookupWindow s i w h r
      | none => .refused .noWindow
    | none =>
      if meetsReserved s r.span || decide (r.span.last > Config.lastAddress) then .refused .straddle
      else lookupFallback s r.address

end Sys2Proof.Machine
end

