-- ==== Sys2Proof/Machine/Forward.lean ====
section
/-! DEFINITION. The forward attempt (R31 to R45), the hand-out of freed reply entries and egress places (R46 to R49), and the
FORWARD_ATTEMPT command. -/

namespace Sys2Proof.Machine

/-- Some entry that is not FREE belongs to the host, is not marked orphan and carries the tag (R32, R54). -/
def tagInUse (s : State) (h : HostId) (tag : BitVec 8) : Bool :=
  (List.finRange Config.replyEntries).any fun i =>
    match (s.entry i).state with
    | .free => false
    | .waiting w => w.host == h && !w.orphan && w.tag == tag
    | .answered a => a.host == h && a.tag == tag

/-- What the tag check and the lookup give a head: the rows of R39. -/
inductive Plan where
  | discard
  | answer (tag : BitVec 8) (status : Status)
  | drop
  | sendFetch (tag : BitVec 8) (length : Nat) (hop : Hop)
  | sendPost (data : List Byte) (hop : Hop)
deriving DecidableEq, Repr

def planOf (s : State) (h : HostId) (r : Request) : Plan :=
  match r with
  | .fetch tag _ n =>
    if tagInUse s h tag then .discard
    else
      match lookup s h r with
      | .refused st => .answer tag st
      | .forward hop => .sendFetch tag n hop
  | .post _ d =>
    match lookup s h r with
    | .refused _ => .drop
    | .forward hop => .sendPost d hop

/-- The lowest-numbered FREE entry (R53). -/
def lowestFree (s : State) : Option (Fin Config.replyEntries) :=
  (List.finRange Config.replyEntries).find? fun i => (s.entry i).isFree

/-- The entry an attempt allocates: the one offered, or else the lowest-numbered FREE one (R53). -/
def entryFor (s : State) (offered : Option (Fin Config.replyEntries)) : Option (Fin Config.replyEntries) :=
  match offered with
  | some i => if (s.entry i).isFree then some i else lowestFree s
  | none => lowestFree s

def egressFull (s : State) (t : TargetId) : Bool := Config.egressPlaces ≤ (s.egress t).length

/-- The mirror port that gets a copy: the MIRROR port while it is UP and not barred (R42, R109). -/
def copyPort (s : State) (hop : Hop) : Option TargetId :=
  match hop.mirror with
  | some m => if targetOpen m s then some m else none
  | none => none

/-- The mirror port that is passed over: the MIRROR port while it is not UP or is barred (R42, R109). -/
def skippedPort (s : State) (hop : Hop) : Option TargetId :=
  match hop.mirror with
  | some m => if targetOpen m s then none else some m
  | none => none

/-- The resources a plan needs that are not free at the attempt (R39, R40). -/
def lacking (s : State) (plan : Plan) : WaitMark :=
  match plan with
  | .discard => .clear
  | .drop => .clear
  | .answer _ _ => ⟨(lowestFree s).isNone, .replicate false⟩
  | .sendFetch _ _ hop => ⟨(lowestFree s).isNone, (PerTarget.replicate false).set hop.target (egressFull s hop.target)⟩
  | .sendPost _ hop =>
    let primary := (PerTarget.replicate false).set hop.target (egressFull s hop.target)
    match copyPort s hop with
    | some m => ⟨false, primary.set m (egressFull s m)⟩
    | none => ⟨false, primary⟩

/-- A refused FETCH is answered through an entry that becomes ANSWERED at once (R44). -/
def answerRefused (h : HostId) (tag : BitVec 8) (status : Status) (i : Fin Config.replyEntries) (s : State) : State :=
  answerEntry i ⟨h, tag, s.ports.session.get h, none, status, []⟩ s

/-- A FETCH is forwarded: its entry becomes WAITING, it enters the primary egress queue, and the count rises (R41, R53). -/
def forwardFetch (h : HostId) (tag : BitVec 8) (n : Nat) (hop : Hop) (i : Fin Config.replyEntries) (s : State) : State :=
  let epoch := (s.entry i).epoch
  let w : Waiting := ⟨h, tag, s.ports.session.get h, false, n, hop.route, hop.target, s.eng.replyLimit⟩
  raiseCount hop.route (pushEgress hop.target (.fetch i epoch hop.address n) (s.setEntry i ⟨epoch, .waiting w⟩))

/-- A POST enters one egress queue and its window's count rises (R42, R109). -/
def placePost (h : HostId) (data : List Byte) (hop : Hop) (t : TargetId) (s : State) : State :=
  raiseCount hop.route (pushEgress t (.post hop.route h hop.address data) s)

/-- A POST is forwarded, with its copy or with MIRROR_SKIPPED (R42, R109). -/
def forwardPost (h : HostId) (data : List Byte) (hop : Hop) (s : State) : State :=
  let placed := placePost h data hop hop.target s
  match copyPort s hop with
  | some m => placePost h data hop m placed
  | none =>
    match skippedPort s hop with
    | some m => setFlag .mirrorSkipped (.target m) placed
    | none => placed

/-- A plan whose resources are all free is carried out (R39). -/
def carryOut (h : HostId) (offered : Option (Fin Config.replyEntries)) (plan : Plan) (s : State) : State :=
  match plan with
  | .discard => setProtocol (.host h) s
  | .drop => setFlag .postRefused (.host h) s
  | .answer tag st =>
    match entryFor s offered with
    | some i => answerRefused h tag st i s
    | none => s
  | .sendFetch tag n hop =>
    match entryFor s offered with
    | some i => forwardFetch h tag n hop i s
    | none => s
  | .sendPost d hop => forwardPost h d hop s

/-- A forward attempt on a host's head, on the offer of an entry where one is offered (R31, R39, R40). The mark is cleared; the
head leaves and its plan is carried out if every needed resource is free, or else the mark is written anew. -/
def attempt (h : HostId) (offered : Option (Fin Config.replyEntries)) (s : State) : State :=
  let s := s.setMark h .clear
  match s.ingress h with
  | [] => s
  | r :: _ =>
    let plan := planOf s h r
    if lacking s plan = .clear then carryOut h offered plan (takeHead h s)
    else s.setMark h (lacking s plan)

/-! ### Hand-out of freed resources -/

/-- The hosts in round-robin order, starting after a position (R46, R47). -/
def hostsAfter : HostId → List HostId
  | .h0 => [.h1, .h2, .h3, .h0]
  | .h1 => [.h2, .h3, .h0, .h1]
  | .h2 => [.h3, .h0, .h1, .h2]
  | .h3 => [.h0, .h1, .h2, .h3]

/-- A freed entry goes through the waiting hosts in order until one allocates it (R46). -/
def offerEntryTo (i : Fin Config.replyEntries) : List HostId → State → State
  | [], s => s
  | h :: hs, s =>
    if (s.mark h).entry then
      let s' := attempt h (some i) s
      if (s'.entry i).isFree then offerEntryTo i hs s' else s'.setEntryPosition h
    else offerEntryTo i hs s

def offerEntry (i : Fin Config.replyEntries) (s : State) : State := offerEntryTo i (hostsAfter s.table.position) s

/-- A freed place goes through the waiting hosts in order until one puts a packet into the queue (R47). -/
def offerPlaceTo (t : TargetId) : List HostId → State → State
  | [], s => s
  | h :: hs, s =>
    if (s.mark h).places.get t then
      let s' := attempt h none s
      if (s.egress t).length < (s'.egress t).length then s'.setEgressPosition t h else offerPlaceTo t hs s'
    else offerPlaceTo t hs s

def offerPlace (t : TargetId) (s : State) : State := offerPlaceTo t (hostsAfter (s.ports.egressPosition.get t)) s

/-- `n` places of one queue are offered in turn (R47). -/
def offerPlaces (t : TargetId) : Nat → State → State
  | 0, s => s
  | n + 1, s => offerPlaces t n (offerPlace t s)

/-- The entries that an event has freed, in increasing index order (R46). -/
def freedEntries (before s : State) : List (Fin Config.replyEntries) :=
  (List.finRange Config.replyEntries).filter fun i => !(before.entry i).isFree && (s.entry i).isFree

/-- The places of a queue that an event has freed (R47). -/
def freedPlaces (before s : State) (t : TargetId) : Nat := (before.egress t).length - (s.egress t).length

/-- After every free of an event, the offers: the freed entries first, then the freed places, T0 to T3 (R46, R47). A freed place
is offered also where an earlier offer of the event has filled its queue again (log 26). -/
def offerFreed (before s : State) : State :=
  TargetId.all.foldl (fun s' t => offerPlaces t (freedPlaces before s t) s')
    ((freedEntries before s).foldl (fun s' i => offerEntry i s') s)

/-- FORWARD_ATTEMPT: the attempt on a head that does not wait, the first since it became the head (R31, log 4). -/
def execForwardAttempt (h : HostId) (s : State) : Answer :=
  if isRunning s ∧ s.mark h = .clear then .next (notify s none (attempt h none s)) else .next s

end Sys2Proof.Machine
end

