-- ==== Sys2Proof/Machine/Drains.lean ====
section
/-! DEFINITION. Drains (chapter 6): start, completion, expiry in GENTLE and FORCE mode, the tail of an event that lowers
counts or frees resources, and the DRAIN_TIMER_EXPIRY command. -/

namespace Sys2Proof.Machine

/-- A drain starts: a job joins the tail of the list, its timer starts with the drain limit in force, the window becomes
DRAINING, and the order entry becomes TAKEN (R119). `state` is the DRAINING state, with its purpose. -/
def startDrain (i : Fin Config.slots) (w : Window) (state : WindowState) (purpose : Purpose) (mode : Mode) (src : Source)
    (e : OrderEntry) (s : State) : State :=
  let job : DrainJob := ⟨⟨i, (s.slot i).generation⟩, purpose, mode, src, e.sequence, e.code, s.eng.drainLimit⟩
  takeOrder src i (setWindow i { w with state := state } (s.setDrains (s.eng.drains ++ [job])))

/-- The job of a slot's window leaves the list and the others keep their order (R117). -/
def removeJob (i : Fin Config.slots) (s : State) : State :=
  s.setDrains (s.eng.drains.filter fun j => j.handle.slot != i)

/-- The purpose of a drain is carried out: a pending change is applied as a whole and the window is LIVE, or the slot becomes
FREE (R123, R124). -/
def carryOutPurpose (i : Fin Config.slots) (s : State) : State :=
  match (s.slot i).window with
  | some w =>
    match w.state with
    | .drainRetire => freeSlot i s
    | .drainChange c => applyChange i c { w with state := .live } s
    | _ => s
  | none => s

/-- A job completes: its purpose is carried out, it leaves the list, and its order is answered DONE (R122). -/
def completeJob (j : DrainJob) (s : State) : State :=
  closeOrder j.source j.handle.slot .done (removeJob j.handle.slot (carryOutPurpose j.handle.slot s))

/-- The jobs whose windows' counts are zero complete, in the order of the drain list (R23, R122, R128). -/
def completeDrains (s : State) : State :=
  s.eng.drains.foldl (fun s' j => if (s'.slot j.handle.slot).count = 0 then completeJob j s' else s') s

/-- The tail of an event that lowers counts or frees entries and places: completions, then offers (R46, R47, R127, R128). -/
def settle (before s : State) : State := offerFreed before (completeDrains s)

/-- A GENTLE drain is abandoned: the window is LIVE as it was, a reserved record goes back to the pool, the count keeps its
value, and the order is answered DRAIN_EXPIRED (R15, R125). R4 has a DRAINING window leave DRAINING at a count of zero alone;
the model follows R15, R23 and R125, which keep the count (log 24). -/
def abandonDrain (j : DrainJob) (s : State) : State :=
  let i := j.handle.slot
  let restored :=
    match (s.slot i).window with
    | some w =>
      match w.state with
      | .drainRetire => setWindow i { w with state := .live } s
      | .drainChange (.attach _) => (setWindow i { w with state := .live } s).setPoolFree (s.dir.poolFree + 1)
      | .drainChange _ => setWindow i { w with state := .live } s
      | _ => s
    | none => s
  setPlainFlag .drainExpired (closeOrder j.source i .drainExpired (removeJob i restored))

/-- The POST names a window (R126). -/
def namesWindow (h : Handle) : EgressPacket → Bool
  | .post (.window k) _ _ _ => k == h
  | _ => false

/-- The POSTs of a queue that a test picks; POSTS_LOST is set with the port if there is one (R126, R157, R159). -/
def losePosts (picks : EgressPacket → Bool) (t : TargetId) (s : State) : State :=
  if (s.egress t).any picks then setFlag .postsLost (.target t) (removePosts picks t s) else s

/-- Forced removal: the window's WAITING entries end ABORTED, then its POSTs are removed, T0 to T3 (R126). -/
def forceRemoval (h : Handle) (s : State) : State :=
  TargetId.all.foldl (fun s t => losePosts (namesWindow h) t s)
    (leaveWaitingAll (fun w => w.route == .window h) .aborted s)

/-- A FORCE drain expires: forced removal, then completion at the same event (R126). -/
def forceDrain (j : DrainJob) (s : State) : State :=
  setPlainFlag .forcedRemoval (completeDrains (forceRemoval j.handle s))

/-- DRAIN_TIMER_EXPIRY: the drain timer of the job that follows a slot's window runs out (R120, R125, R126). With no such job
there is no timer to run out. -/
def execDrainTimerExpiry (i : Fin Config.slots) (s : State) : Answer :=
  if isRunning s then
    match s.eng.drains.find? fun j => j.handle.slot == i with
    | some j =>
      match j.mode with
      | .gentle => .next (notify s none (abandonDrain j s))
      | .force => .next (notify s none (offerFreed s (forceDrain j s)))
    | none => .next s
  else .next s

end Sys2Proof.Machine
end

