-- ==== Sys2Proof/Machine/Arrivals.lean ====
section
/-! DEFINITION. Screening of arriving packets (R148, R163, R167 to R169), the hand-on to ingress queues (R29), order queues
(R73, R74) and reply matching (R57 to R60), the link's sending events (R151, R152), and the reply timer's expiry (R62). -/

namespace Sys2Proof.Machine

/-! ### Screening -/

/-- The kind codes a port takes in (R163). -/
def takesKind : Port → Byte → Bool
  | .host _, k => k == kindPost || k == kindFetch || k == kindOrder
  | .target _, k => k == kindReply
  | .mgmt, k => k == kindOrder

/-- Length field and payload agree with the kind (R169). -/
def formMatches (k : Byte) (f : Frame) : Bool :=
  let n := f.length.toNat
  if k = kindPost then decide (1 ≤ n ∧ n ≤ 256 ∧ f.payload.length = n)
  else if k = kindFetch then decide (1 ≤ n ∧ n ≤ 256) && f.payload.isEmpty
  else if k = kindOrder then decide (n = 0 ∧ f.payload.length = 64)
  else if k = kindReply then decide (n ≤ 256 ∧ f.payload.length = n)
  else false

/-- The packet is whole, undamaged, on a port that takes its kind, and of the right form: tests 2 to 4 (R168). -/
def passesTests (p : Port) (k : Byte) (f : Frame) : Bool :=
  checkMatches k f && takesKind p k && formMatches k f

/-- A source's order queue has no free place (R73). -/
def ordersFull (src : Source) (s : State) : Bool := Config.orderPlaces src ≤ placesUsed (s.orders src)

/-- A discarded packet is taken to have spent one credit of the class its kind names on the port, if the unused grant is above
zero, and that credit goes back (R168). -/
def refundDiscarded (p : Port) (k : Byte) (s : State) : State :=
  match p with
  | .host h =>
    if (k = kindPost ∨ k = kindFetch) ∧ s.ports.grantedRequest.get h ≠ 0 then
      returnRequestCredits h 1 (spendRequestCredit h s)
    else if k = kindOrder ∧ s.ports.grantedOrder.get (.host h) ≠ 0 then
      returnOrderCredit (.host h) (spendOrderCredit (.host h) s)
    else s
  | .mgmt =>
    if k = kindOrder ∧ s.ports.grantedOrder.get .mgmt ≠ 0 then returnOrderCredit .mgmt (spendOrderCredit .mgmt s)
    else s
  | .target _ => s

/-- A packet that fails a test is discarded with PROTOCOL set (R168). -/
def discardPacket (p : Port) (k : Byte) (s : State) : State := refundDiscarded p k (setProtocol p s)

/-! ### Hand-on -/

/-- The request a POST or FETCH from a host stands for (R164). -/
def requestOf (k : Byte) (f : Frame) : Request :=
  if k = kindPost then .post f.address f.payload
  else .fetch (f.tag.setWidth 8) f.address f.length.toNat

/-- A POST or FETCH at a host's ingress queue: it enters the tail, or finds the queue full (R29, R168). -/
def enterIngress (h : HostId) (r : Request) (s : State) : State :=
  if Config.ingressPlaces ≤ (s.ingress h).length then setProtocol (.host h) s
  else (spendRequestCredit h s).setIngress h (s.ingress h ++ [r])

/-- An entry of the queue that is not silent carries the sequence number (R74). -/
def sequenceInUse (src : Source) (q : Byte) (s : State) : Bool :=
  (s.orders src).any fun e => !e.silent && e.sequence == q

/-- The entry an ORDER makes in its source's queue (R73). -/
def orderEntryOf (f : Frame) : OrderEntry := ⟨f.tag.setWidth 8, f.orderCode, f.payload, .queued, false⟩

/-- An ORDER at its source's queue: it enters the tail as QUEUED, or finds the queue full, or repeats a sequence number
(R73, R74, R168). -/
def enterOrders (src : Source) (e : OrderEntry) (s : State) : State :=
  if ordersFull src s then setProtocol src.port s
  else if sequenceInUse src e.sequence s then
    setProtocol src.port (returnOrderCredit src (spendOrderCredit src s))
  else (spendOrderCredit src s).setOrders src (s.orders src ++ [e])

/-- The entry index that a tag names: bits 11 to 6, where it is below 48 (R55, R165). -/
def tagIndex (tag : BitVec 16) : Option (Fin Config.replyEntries) :=
  let n := (tag.extractLsb' 6 6).toNat
  if h : n < Config.replyEntries then some ⟨n, h⟩ else none

/-- The epoch a tag names: bits 5 to 0 (R165). -/
def tagEpoch (tag : BitVec 16) : BitVec 6 := tag.extractLsb' 0 6

/-- The WAITING entry that a REPLY matches (R57, R60). -/
def matchReply (s : State) (t : TargetId) (tag : BitVec 16) : Option (Fin Config.replyEntries × Waiting) :=
  match tagIndex tag with
  | some i =>
    match (s.entry i).state with
    | .waiting w => if (s.entry i).epoch = tagEpoch tag ∧ w.target = t then some (i, w) else none
    | _ => none
  | none => none

/-- A matched REPLY is rightly formed for its entry (R58). -/
def replyFits (w : Waiting) (f : Frame) : Bool :=
  (f.status == statusCode .done && f.payload.length == w.length) || (f.status == statusCode .targetError && f.payload.isEmpty)

/-- The answer a matched REPLY gives its entry (R58). -/
def judgeReply (w : Waiting) (f : Frame) : Status × List Byte :=
  if f.status = statusCode .done ∧ f.payload.length = w.length then (.done, f.payload) else (.targetError, [])

/-- A REPLY at the Reply Table: matched, or stray (R57 to R61). -/
def matchArrival (t : TargetId) (f : Frame) (s : State) : State :=
  match matchReply s t f.tag with
  | some (i, w) =>
    let (st, d) := judgeReply w f
    let s' := if replyFits w f then s else setProtocol (.target t) s
    settle s (leaveWaiting i st d s')
  | none => setFlag .strayReply (.target t) s

/-- A packet that has passed tests 1 to 4 is handed on by kind and port (R148). -/
def handOn (p : Port) (k : Byte) (f : Frame) (s : State) : State :=
  match p with
  | .host h => if k = kindOrder then enterOrders (.host h) (orderEntryOf f) s else enterIngress h (requestOf k f) s
  | .mgmt => enterOrders .mgmt (orderEntryOf f) s
  | .target t => matchArrival t f s

/-- A packet arrives on a port (R148, R168, R178). -/
def packetArrives (p : Port) (k : Byte) (f : Frame) (s : State) : State :=
  if isRunning s then
    notify s none
      (if !isUp p s then setProtocol p s
       else if passesTests p k f then handOn p k f s
       else discardPacket p k s)
  else s

/-- POST (R29). -/
def execPost (h : HostId) (f : Frame) (s : State) : Answer := .next (packetArrives (.host h) kindPost f s)

/-- FETCH (R29). -/
def execFetch (h : HostId) (f : Frame) (s : State) : Answer := .next (packetArrives (.host h) kindFetch f s)

/-- ORDER (R73). -/
def execOrder (src : Source) (f : Frame) (s : State) : Answer := .next (packetArrives src.port kindOrder f s)

/-- REPLY (R57). -/
def execReply (t : TargetId) (f : Frame) (s : State) : Answer := .next (packetArrives (.target t) kindReply f s)

/-- MISDIRECTED_PACKET (R163). -/
def execMisdirectedPacket (p : Port) (k : Byte) (f : Frame) (s : State) : Answer := .next (packetArrives p k f s)

/-! ### Sending -/

/-- The head of an egress queue leaves on the link (R151). -/
def deliverHead (t : TargetId) (pkt : EgressPacket) (s : State) : State :=
  lowerCountOf pkt (sendAgainstCredit (.target t) (.egress pkt) (s.setEgress t (s.egress t).tail))

/-- DELIVERY: while the port is UP and holds a REQUEST credit (R151). -/
def execDelivery (t : TargetId) (s : State) : Answer :=
  match s.egress t with
  | [] => .next s
  | pkt :: _ =>
    if isRunning s ∧ isUp (.target t) s ∧ s.ports.held.get (.target t) ≠ 0 then
      .next (notify s none (settle s (deliverHead t pkt s)))
    else .next s

/-- What the sending of a return packet frees: a REPLY its entry, an ORDER_REPLY its order place, with one ORDER credit going
back (R65, R75, R152). -/
def releaseSent (src : Source) (pkt : ReturnPacket) (s : State) : State :=
  match pkt with
  | .reply i _ _ _ =>
    match (s.entry i).state with
    | .answered _ => freeEntry i s
    | _ => s
  | .orderReply q _ _ _ =>
    if (s.orders src).any (isAnsweredAs q) then
      returnOrderCredit src (s.setOrders src ((s.orders src).eraseP (isAnsweredAs q)))
    else s
  | .notice _ => s
  | .notification _ _ => s

/-- The sending of a NOTICE or notification POST makes its port act on the owed mark (R182, R184). -/
def promptOf (src : Source) (pkt : ReturnPacket) : Option Port :=
  if isNotice pkt || isNotification pkt then some src.port else none

/-- The head of a return queue leaves on the link (R152). -/
def sendHead (src : Source) (pkt : ReturnPacket) (s : State) : State :=
  releaseSent src pkt (sendAgainstCredit src.port (.back pkt) (s.setReturns src (s.returns src).tail))

/-- RETURN_QUEUE_SENDING: while the port is UP and holds a RETURN credit (R152). -/
def execReturnQueueSending (src : Source) (s : State) : Answer :=
  match s.returns src with
  | [] => .next s
  | pkt :: _ =>
    if isRunning s ∧ isUp src.port s ∧ s.ports.held.get src.port ≠ 0 then
      .next (notify s (promptOf src pkt) (offerFreed s (sendHead src pkt s)))
    else .next s

/-! ### Reply timers -/

/-- REPLY_TIMER_EXPIRY: the timer runs while the entry is WAITING (R62). -/
def execReplyTimerExpiry (i : Fin Config.replyEntries) (s : State) : Answer :=
  match (s.entry i).state with
  | .waiting w =>
    if isRunning s then
      .next (notify s none (settle s (leaveWaiting i .timeout [] (setFlag .replyTimeout (.target w.target) s))))
    else .next s
  | _ => .next s

end Sys2Proof.Machine
end

