-- ==== Sys2Proof/Machine/Control.lean ====
section
/-! DEFINITION. Supplies, RESET_N and start-up (R191, R194, R195). -/

namespace Sys2Proof.Machine

/-- Every block at its power-on value, in a phase and with a reset cause record; commands that wait and units that have left
are kept (R26, R51, R71, R77, R116, R133, R134, R136, R144, R160, R178, R180, R189). -/
def powerOnValues (phase : Phase) (cause : ResetCause) (s : State) : State :=
  { State.reset with ctl := ⟨phase, cause⟩, pending := s.pending, sent := s.sent }

/-- POWER_ON: the supplies become valid, with RESET_N high or low (R195). -/
def execPowerOn (resetHigh : Bool) (s : State) : Answer :=
  .next (powerOnValues (if resetHigh then .startUp else .held) ⟨true, false, false⟩ s)

/-- PIN_RESET: RESET_N has stayed low for 1 µs while the supplies are valid (R194). While the part is already held in reset the
low level is part of the same reset, or was held through power-on (R194, R195; log 8). -/
def execPinReset (s : State) : Answer :=
  match s.ctl.phase with
  | .unpowered => .next s
  | .held => .next s
  | .startUp => .next (powerOnValues .held { s.ctl.cause with pin := true } s)
  | .running => .next (powerOnValues .held { s.ctl.cause with pin := true } s)

def setPhase (p : Phase) (s : State) : State := { s with ctl := { s.ctl with phase := p } }

/-- RESET_N_RELEASE: RESET_N returns high and start-up begins (R194, R195). -/
def execResetNRelease (s : State) : Answer :=
  if s.ctl.phase = .held then .next (setPhase .startUp s) else .next s

/-- START_UP_END: all nine ports are enabled at once (R194). -/
def execStartUpEnd (s : State) : Answer :=
  if s.ctl.phase = .startUp then .next (setPhase .running s) else .next s

/-- LOSS_OF_SUPPLY: all activity ends, and the NOTE_N output is no longer driven (R195; log 9). -/
def execLossOfSupply (s : State) : Answer :=
  .next (setPhase .unpowered (s.setEvents { s.events with noteN := false }))

end Sys2Proof.Machine
end

