-- ==== Sys2Proof/Machine/Operands.lean ====
section
/-! DEFINITION. The operand block of an order (R170, R171): its fields, their codes, and the operand values each order reads. A
value with no code reads as none, which the operand check refuses BAD_OPERAND (R87). -/

namespace Sys2Proof.Machine

/-- The orders that order codes name (R166). -/
inductive OrderName where
  | query | find | list | readStatus | openWindow | activate | modify | retire | lock | attach | detach | setFallback
  | setRights | freeze | barPort | enablePort | readEvents | clearEvents | setEventEnables | setNotify | setTimers
  | resetPaths | clearResetCause
deriving DecidableEq, Repr

def OrderName.all : List OrderName :=
  [.query, .find, .list, .readStatus, .openWindow, .activate, .modify, .retire, .lock, .attach, .detach, .setFallback,
   .setRights, .freeze, .barPort, .enablePort, .readEvents, .clearEvents, .setEventEnables, .setNotify, .setTimers,
   .resetPaths, .clearResetCause]

/-- Order codes 01h to 17h (R166). -/
def orderCode : OrderName → Byte
  | .query => 0x01
  | .find => 0x02
  | .list => 0x03
  | .readStatus => 0x04
  | .openWindow => 0x05
  | .activate => 0x06
  | .modify => 0x07
  | .retire => 0x08
  | .lock => 0x09
  | .attach => 0x0A
  | .detach => 0x0B
  | .setFallback => 0x0C
  | .setRights => 0x0D
  | .freeze => 0x0E
  | .barPort => 0x0F
  | .enablePort => 0x10
  | .readEvents => 0x11
  | .clearEvents => 0x12
  | .setEventEnables => 0x13
  | .setNotify => 0x14
  | .setTimers => 0x15
  | .resetPaths => 0x16
  | .clearResetCause => 0x17

/-- The order a code names, if it names one (R81, R166). -/
def orderOfCode (c : Byte) : Option OrderName := OrderName.all.find? fun o => orderCode o == c

/-- Order classes (R82). -/
inductive OrderClass where
  | view | window | management
deriving DecidableEq, Repr

def OrderName.cls : OrderName → OrderClass
  | .query | .find | .list | .readStatus => .view
  | .openWindow | .activate | .modify | .retire | .lock | .attach | .detach => .window
  | _ => .management

/-- The changing orders (R83). -/
def OrderName.changes : OrderName → Bool
  | .openWindow | .activate | .modify | .attach | .detach | .retire | .lock | .setFallback | .setRights => true
  | _ => false

/-! ### Fields of the block -/

/-- Byte `i` of the block. -/
def blockByte (b : List Byte) (i : Nat) : Byte := b.getD i 0

/-- The number in `n` bytes of the block from byte `i` (R161, R170). -/
def blockNat (b : List Byte) (i n : Nat) : Nat := beNat ((b.drop i).take n)

def slotOf (b : List Byte) : Byte := blockByte b 0

def generationOf (b : List Byte) : BitVec 8 := blockByte b 1

/-- The slot a slot byte names; 64 and above name none (R1, R171). -/
def slotNumber (b : List Byte) : Option (Fin Config.slots) :=
  if h : (slotOf b).toNat < Config.slots then some ⟨(slotOf b).toNat, h⟩ else none

def modeOf (b : List Byte) : Option Mode := [Mode.gentle, .force].find? fun m => modeCode m == blockByte b 2

def kindOf (b : List Byte) : Option ExtKind :=
  [ExtKind.translate, .guard, .mirror].find? fun k => kindCode k == blockByte b 3

/-- The supplied mark in bit `n` of byte 4; bits 5 to 7 are not examined (R170, R171). -/
def supplied (b : List Byte) (n : Nat) : Bool := (blockByte b 4).getLsbD n

def portByte (b : List Byte) : Byte := blockByte b 5

def targetOf (b : List Byte) : Option TargetId := targetOfCode (portByte b)

def accessOfCode (c : Byte) : Option Access :=
  [Access.read, .write, .readWrite].find? fun a => accessCode a == c

def accessOf (b : List Byte) : Option Access := accessOfCode (blockByte b 6)

/-- The users set; bits 4 to 7 must be clear (R171). -/
def usersOf (b : List Byte) : Option (BitVec 4) :=
  let u := blockByte b 7
  if u.extractLsb' 4 4 = 0 then some (u.extractLsb' 0 4) else none

def baseOf (b : List Byte) : Addr := BitVec.ofNat 48 (blockNat b 8 6)

def limitOf (b : List Byte) : Addr := BitVec.ofNat 48 (blockNat b 14 6)

/-- The initial state: STAGED or LIVE (R11, R89). -/
def initialStateOf (b : List Byte) : Option WindowState :=
  [WindowState.staged, .live].find? fun st => windowStateCode st == blockByte b 20

def rightsOf (b : List Byte) : Option Rights :=
  [Rights.none, .view, .own].find? fun r => rightsCode r == blockByte b 21

/-- The allotment empty mark: yes or no (R138). -/
def emptyMarkOf (b : List Byte) : Option Bool := [false, true].find? fun m => markCode m == blockByte b 22

def permissionOfCode (c : Byte) : Option Permission :=
  [Permission.none, .read, .readWrite].find? fun p => permissionCode p == c

def replyLimitOf (b : List Byte) : BitVec 16 := BitVec.ofNat 16 (blockNat b 32 2)

def drainLimitOf (b : List Byte) : BitVec 16 := BitVec.ofNat 16 (blockNat b 34 2)

/-- The event flag set; bits 12 to 15 are not examined (R171). -/
def flagSetOf (b : List Byte) : BitVec 12 := BitVec.ofNat 12 (blockNat b 36 2)

def dataBaseOf (b : List Byte) : BitVec 32 := BitVec.ofNat 32 (blockNat b 38 4)

/-! ### Operand values -/

/-- Low 12 bits zero (R5). -/
def isGranuleBase (a : Addr) : Bool := a.extractLsb' 0 12 == 0

/-- Low 12 bits all ones (R5). -/
def isGranuleLimit (a : Addr) : Bool := a.extractLsb' 0 12 == BitVec.allOnes 12

/-- Bounds that keep R5. -/
def boundsFit (base limit : Addr) : Bool := isGranuleBase base && isGranuleLimit limit && base.toNat ≤ limit.toNat

/-- The window an OPEN asks for, less its owner (R89), where every field has a value and the bounds keep R5. -/
def openOperands (b : List Byte) (owner : Source) : Option Window := do
  let target ← targetOf b
  let access ← accessOf b
  let users ← usersOf b
  let state ← initialStateOf b
  if boundsFit (baseOf b) (limitOf b) then
    some ⟨state, baseOf b, limitOf b, target, access, users, owner, false, []⟩
  else none

/-- A supplied field: absent if not marked, refused if marked and its value has no code (R92). -/
def suppliedField {α : Type} (marked : Bool) (value : Option α) : Option (Option α) :=
  if marked then value.map some else some none

/-- The fields a MODIFY supplies (R92); none if a supplied one has no value. -/
def modifyOperands (b : List Byte) : Option ModifyFields := do
  let target ← suppliedField (supplied b 2) (targetOf b)
  let access ← suppliedField (supplied b 3) (accessOf b)
  let users ← suppliedField (supplied b 4) (usersOf b)
  some
    { base := if supplied b 0 then some (baseOf b) else none
      limit := if supplied b 1 then some (limitOf b) else none
      target, access, users }

/-- A GUARD entry: pair `n` of bytes 24 to 31 (R106, R170). -/
def guardPair (b : List Byte) (n : Nat) : Option (HostId × Permission) := do
  let h ← hostOfCode (blockByte b (24 + 2 * n))
  let p ← permissionOfCode (blockByte b (25 + 2 * n))
  some (h, p)

/-- No host appears twice (R106). -/
def distinctHosts : List (HostId × Permission) → Bool
  | [] => true
  | e :: es => !(es.any fun x => x.1 == e.1) && distinctHosts es

/-- The list of a GUARD record (R106). -/
def guardOperands (b : List Byte) : Option (List (HostId × Permission)) :=
  let n := (blockByte b 23).toNat
  if 1 ≤ n ∧ n ≤ 4 then
    match (List.range n).mapM (guardPair b) with
    | some es => if distinctHosts es then some es else none
    | none => none
  else none

/-- The translated range of a window stays within the address space (R104). -/
def translationFits (targetBase : Addr) (base limit : Nat) : Bool :=
  decide (targetBase.toNat + (limit - base) ≤ Config.lastAddress)

/-- The record an ATTACH asks for on a window, where its contents keep R104, R106 or R108 (R111). -/
def attachOperands (b : List Byte) (w : Window) : Option ExtRecord :=
  match kindOf b with
  | some .translate =>
    if isGranuleBase (baseOf b) && translationFits (baseOf b) w.base.toNat w.limit.toNat then
      some (.translate (baseOf b))
    else none
  | some .guard => (guardOperands b).map .guard
  | some .mirror =>
    match targetOf b with
    | some t => if t = w.target then none else some (.mirror t)
    | none => none
  | none => none

/-- The fallback a SET_FALLBACK asks for: none or a target (R25). -/
def fallbackOperand (b : List Byte) : Option (Option TargetId) :=
  if portByte b = noPortCode then some none else (targetOf b).map some

/-- The allotment a SET_RIGHTS asks for; bounds are examined only when the empty mark is no (R138). -/
def allotmentOperand (b : List Byte) : Option (Option Range) :=
  match emptyMarkOf b with
  | some true => some none
  | some false => if boundsFit (baseOf b) (limitOf b) then some (some ⟨baseOf b, limitOf b⟩) else none
  | none => none

/-- The host, rights and allotment of a SET_RIGHTS (R138). -/
def rightsOperands (b : List Byte) : Option (HostId × Rights × Option Range) := do
  let h ← hostOfCode (portByte b)
  let r ← rightsOf b
  let a ← allotmentOperand b
  some (h, r, a)

/-- The host or target port of a BAR_PORT or ENABLE_PORT (R154). -/
def barOperand (b : List Byte) : Option Port :=
  match hostOfCode (portByte b) with
  | some h => some (.host h)
  | none => (targetOf b).map .target

/-- The notified host of a SET_NOTIFY: none or a host (R188). -/
def notifyHostOperand (b : List Byte) : Option (Option HostId) :=
  if portByte b = noPortCode then some none else (hostOfCode (portByte b)).map some

/-- The setting a SET_NOTIFY asks for (R188). -/
def notifyOperands (b : List Byte) : Option NotifySetting :=
  (notifyHostOperand b).map fun h => ⟨h, baseOf b, dataBaseOf b⟩

/-- The limits of a SET_TIMERS (R189). -/
def timerOperands (b : List Byte) : Option (BitVec 16 × BitVec 16) :=
  if (replyLimitOf b).toNat = 0 ∨ (drainLimitOf b).toNat = 0 ∨ Config.drainLimitMax < (drainLimitOf b).toNat then none
  else some (replyLimitOf b, drainLimitOf b)

end Sys2Proof.Machine
end

