-- ==== Sys2Proof/Machine/Orders.lean ====
section
/-! DEFINITION. The arbiter (R78), the decision of an order (R79, R81), and the eight checks (R82 to R88). -/

namespace Sys2Proof.Machine

/-! ### The arbiter -/

/-- The sources in the arbiter's order, starting after its position (R78). -/
def sourcesAfter : Source → List Source
  | .mgmt => [.host .h0, .host .h1, .host .h2, .host .h3, .mgmt]
  | .host .h0 => [.host .h1, .host .h2, .host .h3, .mgmt, .host .h0]
  | .host .h1 => [.host .h2, .host .h3, .mgmt, .host .h0, .host .h1]
  | .host .h2 => [.host .h3, .mgmt, .host .h0, .host .h1, .host .h2]
  | .host .h3 => [.mgmt, .host .h0, .host .h1, .host .h2, .host .h3]

/-- The oldest QUEUED entry of a source. -/
def oldestQueued (s : State) (src : Source) : Option OrderEntry := (s.orders src).find? isQueued

/-- The order the arbiter decides next: the oldest QUEUED entry of the first source after its position that has one (R78). -/
def nextOrder (s : State) : Option (Source × OrderEntry) :=
  (sourcesAfter s.eng.position).findSome? fun src => (oldestQueued s src).map fun e => (src, e)

/-! ### The checks -/

/-- The first check that fails gives the status (section 4.3). -/
def firstRefusal (checks : List (Option Status)) : Option Status := checks.findSome? id

def refuseIf (b : Bool) (st : Status) : Option Status := if b then some st else none

/-- The first check, source rights (R82). -/
def rightsCheck (o : OrderName) (src : Source) (s : State) : Option Status :=
  match src with
  | .mgmt => none
  | .host h =>
    firstRefusal
      [refuseIf (s.ports.barredHost.get h) .barred,
       refuseIf (s.eng.rights.get h == .none) .noRights,
       refuseIf (o.cls == .management) .mgmtOnly,
       refuseIf (o.cls == .window && s.eng.rights.get h != .own) .noRights]

/-- The second check, freeze (R83). -/
def freezeCheck (o : OrderName) (s : State) : Option Status := refuseIf (o.changes && s.eng.frozen) .frozen

/-- What a handle in an operand block resolves to (R1, R84). -/
inductive Resolved where
  | noSuchSlot
  | notFound
  | stale
  | found (i : Fin Config.slots) (w : Window)
deriving DecidableEq, Repr

/-- What the handle of an operand block resolves to (R1). R16 says that the handle of a window whose slot has become FREE
resolves STALE; the model follows R1, R96 and R124, by which it is NOT_FOUND while the slot is FREE (log 23). -/
def resolve (s : State) (b : List Byte) : Resolved :=
  match slotNumber b with
  | none => .noSuchSlot
  | some i =>
    match (s.slot i).window with
    | none => .notFound
    | some w => if (s.slot i).generation = generationOf b then .found i w else .stale

/-- The third check, handle (R84). A slot number of 64 or more passes here and is refused at the seventh. -/
def handleCheck : Resolved → Option Status
  | .notFound => some .notFound
  | .stale => some .stale
  | _ => none

/-- The fourth check, ownership (R85, R140). -/
def ownerCheck (src : Source) (w : Window) : Option Status :=
  match src with
  | .mgmt => none
  | .host h => refuseIf (w.owner != .host h) .notOwner

/-- The fifth check, lock (R85, R142). -/
def lockCheck (w : Window) : Option Status := refuseIf w.locked .locked

def isDraining : WindowState → Bool
  | .drainRetire => true
  | .drainChange _ => true
  | _ => false

/-- The sixth check, state: the table of R86. -/
def stateCheck (o : OrderName) (w : Window) : Option Status :=
  match o with
  | .query => none
  | _ =>
    if isDraining w.state then some .busy
    else
      match o with
      | .activate => refuseIf (w.state == .live) .wrongState
      | .lock => refuseIf (w.state == .staged) .wrongState
      | _ => none

/-- The checks of an order that names a handle, from the rights check on (R82 to R88). The fourth and fifth apply to the orders
of `owned` and `lockable`; `operands` and `resources` are the order's own seventh and eighth on the window found. -/
def handleOrderChecks (o : OrderName) (owned lockable : Bool)
    (operands resources : Fin Config.slots → Window → OrderEntry → State → Option Status)
    (src : Source) (e : OrderEntry) (s : State) : Option Status :=
  firstRefusal
    [rightsCheck o src s,
     freezeCheck o s,
     handleCheck (resolve s e.block),
     match resolve s e.block with
     | .found i w =>
       firstRefusal
         [if owned then ownerCheck src w else none,
          if lockable then lockCheck w else none,
          stateCheck o w,
          operands i w e s,
          resources i w e s]
     | _ => some .badOperand]

/-- The checks of an order that names no handle. -/
def plainOrderChecks (o : OrderName) (operands resources : Source → OrderEntry → State → Option Status)
    (src : Source) (e : OrderEntry) (s : State) : Option Status :=
  firstRefusal [rightsCheck o src s, freezeCheck o s, operands src e s, resources src e s]

def noPlainCheck : Source → OrderEntry → State → Option Status := fun _ _ _ => none

def noWindowCheck : Fin Config.slots → Window → OrderEntry → State → Option Status := fun _ _ _ _ => none

/-- Refused BAD_OPERAND where the operands have no value (R87). -/
def refuseNone {α : Type} (x : Option α) : Option Status := refuseIf x.isNone .badOperand

/-- A range lies inside an allotment (R136). -/
def insideAllotment (a : Option Range) (p : Span) : Bool :=
  match a with
  | some r => decide (r.base.toNat ≤ p.first ∧ p.last ≤ r.limit.toNat)
  | none => false

/-- OUTSIDE_ALLOTMENT for a range of a host-owned window (R87, R89, R93, R136). -/
def allotmentCheck (owner : Source) (p : Span) (s : State) : Option Status :=
  match owner with
  | .mgmt => none
  | .host h => refuseIf (!insideAllotment (s.eng.allotment.get h) p) .outsideAllotment

/-! ### Drains and changes -/

/-- The routing kinds of change (R13, R103). -/
def isRouting : PendingChange → Bool
  | .modify f => f.movesRange || f.target.isSome
  | .attach r => r.kind != .guard
  | .detach k => k != .guard

/-- The change, or a RETIRE, on this window waits in a drain: the window is LIVE with a count above zero (R14, R119). -/
def needsDrain (routing : Bool) (i : Fin Config.slots) (w : Window) (s : State) : Bool :=
  routing && w.state == .live && (s.slot i).count != 0

/-- A free place in the drain list for an order that would start a drain (R88). -/
def drainPlaceCheck (routing : Bool) (i : Fin Config.slots) (w : Window) (s : State) : Option Status :=
  refuseIf (needsDrain routing i w s && Config.drainPlaces ≤ s.eng.drains.length) .busy

/-- A change that has passed its checks: applied at once with DONE, or started as a CHANGE drain (R13, R14, R94, R112, R114). -/
def makeChange (i : Fin Config.slots) (w : Window) (c : PendingChange) (m : Mode) (src : Source) (e : OrderEntry)
    (s : State) : State :=
  if needsDrain (isRouting c) i w s then startDrain i w (.drainChange c) .change m src e s
  else answerOrder src e .done [] (applyChange i c w s)

/-! ### The decision -/

/-- One decision of the arbiter, where the order it takes is one the command names: the position becomes the source; the first
check that fails answers the order with its status; an order that passes is carried out (R78 to R80). Where the arbiter's next
order is another, the decision the command names cannot be taken (log 3). -/
def decideOrder (takes : Byte → Bool) (check : Source → OrderEntry → State → Option Status)
    (carry : Source → OrderEntry → State → State) (s : State) : State :=
  if isRunning s then
    match nextOrder s with
    | some (src, e) =>
      if takes e.code then
        let s := s.setArbiter src
        match check src e s with
        | some st => answerOrder src e st [] s
        | none => carry src e s
      else s
    | none => s
  else s

/-- The code is the order's (R166). -/
def isCode (o : OrderName) (c : Byte) : Bool := orderOfCode c == some o

end Sys2Proof.Machine
end

