-- ==== Sys2Proof/Machine/Sessions.lean ====
section
/-! DEFINITION. Link states and session ends (R147, R156 to R158, R175 to R178), and the symbol and link commands. -/

namespace Sys2Proof.Machine

/-! ### Session ends -/

/-- A host's entries at its session end: WAITING ones are marked orphan, ANSWERED ones become FREE (R67). -/
def orphanEntries (h : HostId) (s : State) : State :=
  (List.finRange Config.replyEntries).foldl
    (fun s i =>
      match (s.entry i).state with
      | .free => s
      | .waiting w => if w.host = h then s.setEntry i { s.entry i with state := .waiting { w with orphan := true } } else s
      | .answered a => if a.host = h then freeEntry i s else s) s

def isTaken (e : OrderEntry) : Bool :=
  match e.state with
  | .taken _ => true
  | _ => false

/-- A source's order queue at its session end: QUEUED and ANSWERED entries are removed, TAKEN ones are marked silent (R76). -/
def endOrders (src : Source) (s : State) : State :=
  s.setOrders src (((s.orders src).filter isTaken).map fun e => { e with silent := true })

/-- A host port's session end (R156), with the held count it leaves (R150). The notification owed is marked if a notification
POST of the notified host was removed with the return queue (R184). -/
def endHostSession (h : HostId) (held : Nat) (s : State) : State :=
  let lost := (s.returns (.host h)).any isNotification && s.events.setting.host == some h
  let s := s.setSession h (s.ports.session.get h + 1)
  let s := ((s.setHeld (.host h) held).setGrantedRequest h 0).setGrantedOrder (.host h) 0
  let s := orphanEntries h (s.setReturns (.host h) [])
  let s := (s.setIngress h []).setMark h .clear
  let s := endOrders (.host h) s
  let s := if lost then setNotificationOwed true s else s
  setFlag .hostDown (.host h) s

def isPost : EgressPacket → Bool
  | .post _ _ _ _ => true
  | .fetch _ _ _ _ => false

/-- A target port's session end: the egress queue is emptied, the port's WAITING entries end PORT_DOWN, and the flags are set
(R63, R157). Completions and offers follow in the tail of the event. -/
def endTargetSession (t : TargetId) (held : Nat) (s : State) : State :=
  let s := losePosts isPost t s
  let s := leaveWaitingAll (fun w => w.target == t) .portDown (s.setEgress t [])
  setFlag .targetDown (.target t) (s.setHeld (.target t) held)

/-- M's session end; the notice owed is marked if a NOTICE was lost with the return queue (R158, R182). -/
def endMgmtSession (held : Nat) (s : State) : State :=
  let lost := (s.returns .mgmt).any isNotice
  let s := ((endOrders .mgmt s).setReturns .mgmt []).setHeld .mgmt held
  let s := s.setGrantedOrder .mgmt 0
  if lost then setNoticeOwed true s else s

/-- The session end of a port whose link goes to a new state with a held count, with completions and offers (R147, R150). The
held count is zero unless the event is a START, which sets it afresh (R174). -/
def endSession (p : Port) (l : LinkState) (held : Nat) (s : State) : State :=
  match p with
  | .host h => settle s (endHostSession h held (s.setLink p l))
  | .target t => settle s (endTargetSession t held (s.setLink p l))
  | .mgmt => endMgmtSession held (s.setLink p l)

/-! ### Symbols -/

/-- The class in which the part sends on a port (R150). -/
def sendingClass : Port → CreditClass
  | .target _ => .request
  | _ => .back

/-- A START at a port that is DOWN or awaiting START: the port is answering and holds the grant of its class (R174, R175). -/
def enterAnswering (p : Port) (sym : Symbol) (s : State) : State :=
  (s.setLink p .answering).setHeld p (symbolGrant sym (sendingClass p))

/-- A START (R147, R175, R176). While the port is UP it ends the session and begins the next at one event (R176). -/
def startArrives (p : Port) (sym : Symbol) (s : State) : State :=
  match s.link p with
  | .down => enterAnswering p sym s
  | .awaitingStart => enterAnswering p sym s
  | .answering => s
  | .up => endSession p .answering (symbolGrant sym (sendingClass p)) s

/-- A STOP (R176). -/
def stopArrives (p : Port) (s : State) : State :=
  match s.link p with
  | .down => s
  | _ => endSession p .down 0 s

/-- A RESTART (R176). -/
def restartArrives (p : Port) (s : State) : State :=
  match s.link p with
  | .down => s
  | _ => endSession p .awaitingStart 0 s

/-- A CREDIT, whose class and count have been read (R174, R176; log 11). -/
def creditArrives (p : Port) (sym : Symbol) (s : State) : State :=
  match symbolCredit sym with
  | none => setProtocol p s
  | some (c, n) =>
    if s.link p = .down then s
    else if c ≠ sendingClass p ∨ s.ports.held.get p + n > Config.heldMax then setProtocol p s
    else s.setHeld p (s.ports.held.get p + n)

/-- A symbol of the right size whose check value is compared first; one that fails is ignored with PROTOCOL (R162, R173). A unit
at a port that is not enabled is ignored without a flag (R178). -/
def screenSymbol (p : Port) (code : Byte) (sym : Symbol) (act : State → State) (s : State) : State :=
  if isRunning s then
    notify s none (if symbolCheckMatches code sym then act s else setProtocol p s)
  else s

/-- A symbol as framed (R173): one of the wrong size, or with a code outside 01h to 04h, is ignored with PROTOCOL. -/
def symbolArrives (p : Port) (bytes : List Byte) (s : State) : State :=
  match bytes with
  | [c, a1, a2, a3, a4, a5, k1, k2] =>
    let sym : Symbol := ⟨a1 ++ a2 ++ a3 ++ a4 ++ a5, k1 ++ k2⟩
    screenSymbol p c sym
      (fun s =>
        if c = symStart then startArrives p sym s
        else if c = symStop then stopArrives p s
        else if c = symRestart then restartArrives p s
        else if c = symCredit then creditArrives p sym s
        else setProtocol p s) s
  | _ => if isRunning s then notify s none (setProtocol p s) else s

/-- START (R175). -/
def execStart (p : Port) (sym : Symbol) (s : State) : Answer := .next (screenSymbol p symStart sym (startArrives p sym) s)

/-- STOP (R176). -/
def execStop (p : Port) (sym : Symbol) (s : State) : Answer := .next (screenSymbol p symStop sym (stopArrives p) s)

/-- RESTART (R176). -/
def execRestart (p : Port) (sym : Symbol) (s : State) : Answer :=
  .next (screenSymbol p symRestart sym (restartArrives p) s)

/-- CREDIT (R174). -/
def execCredit (p : Port) (sym : Symbol) (s : State) : Answer :=
  .next (screenSymbol p symCredit sym (creditArrives p sym) s)

/-- MALFORMED_SYMBOL (R173). -/
def execMalformedSymbol (p : Port) (bytes : List Byte) (s : State) : Answer := .next (symbolArrives p bytes s)

/-- LOSS_OF_SIGNAL: while STARTING or UP it acts as a STOP; while DOWN it has no effect (R177). -/
def execLossOfSignal (p : Port) (s : State) : Answer :=
  if isRunning s then .next (notify s none (stopArrives p s)) else .next s

/-! ### The part's own START -/

/-- The grants of the part's START for a port (R150). -/
def grantsAtStart : Port → Nat × Nat × Nat
  | .host h => (Config.ingressPlaces, Config.orderPlaces (.host h), 0)
  | .target _ => (0, 0, 0)
  | .mgmt => (0, Config.orderPlaces .mgmt, 0)

/-- The credits granted to the partner at the part's START (R150). -/
def grantCredits (p : Port) (s : State) : State :=
  match p with
  | .host h => (s.setGrantedRequest h Config.ingressPlaces).setGrantedOrder (.host h) (Config.orderPlaces (.host h))
  | .target _ => s
  | .mgmt => s.setGrantedOrder .mgmt (Config.orderPlaces .mgmt)

/-- The part's own START leaves an answering port: the port is UP and LINK_UP is set (R147, R175). -/
def startSent (p : Port) (s : State) : State :=
  let (q, o, b) := grantsAtStart p
  setFlag .linkUp p ((grantCredits p (s.setLink p .up)).send p (.start q o b))

/-- PART_START_SENT: the port becoming UP is also the event at which an owed notice or notification is acted on (R175, R182,
R184). -/
def execPartStartSent (p : Port) (s : State) : Answer :=
  if isRunning s ∧ s.link p = .answering then .next (notify s (some p) (startSent p s)) else .next s

end Sys2Proof.Machine
end

