-- ==== Sys2Proof/Machine/ViewOrders.lean ====
section
/-! DEFINITION. The view orders: QUERY, FIND, LIST (chapter 4) and READ_STATUS (chapter 11), and orders of unknown code. -/

namespace Sys2Proof.Machine

/-! ### QUERY (R98) -/

/-- The job that follows a slot's window (R117). -/
def jobOf (s : State) (i : Fin Config.slots) : Option DrainJob := s.eng.drains.find? fun j => j.handle.slot == i

/-- Drain purpose and mode, then the pending change of a CHANGE; absent unless DRAINING (R98). -/
def drainBytes (s : State) (i : Fin Config.slots) (w : Window) : List Byte :=
  let mode := optionBytes (fun j => [modeCode j.mode]) (jobOf s i)
  match w.state with
  | .drainRetire => purposeCode .retire :: mode
  | .drainChange c => purposeCode .change :: mode ++ changeBytes c
  | _ => []

/-- The results of a QUERY (R98, R172). -/
def queryBytes (s : State) (i : Fin Config.slots) (w : Window) : List Byte :=
  handleBytes ⟨i, (s.slot i).generation⟩ ++ [windowStateCode w.state] ++ addrBytes w.base ++ addrBytes w.limit
    ++ [portCode (.target w.target), accessCode w.access, w.users.setWidth 8, portCode w.owner.port, markCode w.locked,
        BitVec.ofNat 8 (s.slot i).count, BitVec.ofNat 8 w.chain.length]
    ++ w.chain.flatMap recordBytes ++ drainBytes s i w

def carryQuery (src : Source) (e : OrderEntry) (s : State) : State :=
  match resolve s e.block with
  | .found i w => answerOrder src e .done (queryBytes s i w) s
  | _ => s

def execQuery (s : State) : Answer :=
  .next (decideOrder (isCode .query) (handleOrderChecks .query false false noWindowCheck noWindowCheck) carryQuery s)

/-! ### FIND (R99) -/

/-- The results of a FIND for an address (R99). -/
def findBytes (s : State) (a : Addr) : List Byte :=
  match findSlot s a.toNat with
  | some i =>
    [0x01] ++ handleBytes ⟨i, (s.slot i).generation⟩
      ++ optionBytes (fun w : Window => [windowStateCode w.state]) (s.slot i).window
  | none => [0x02, markCode s.dir.fallback.isSome]

def carryFind (src : Source) (e : OrderEntry) (s : State) : State :=
  answerOrder src e .done (findBytes s (baseOf e.block)) s

def execFind (s : State) : Answer :=
  .next (decideOrder (isCode .find) (plainOrderChecks .find noPlainCheck noPlainCheck) carryFind s)

/-! ### LIST (R20, R100) -/

/-- A window as LIST reports it: its handle and its current base. -/
structure Listed where
  handle : Handle
  base : Addr
deriving DecidableEq, Repr

/-- Insertion in increasing order of base. -/
def insertListed (x : Listed) : List Listed → List Listed
  | [] => [x]
  | y :: ys => if x.base.toNat ≤ y.base.toNat then x :: y :: ys else y :: insertListed x ys

/-- The non-FREE windows whose current base is at or above an address, in increasing order of base (R20, R100). -/
def listedFrom (s : State) (start : Addr) : List Listed :=
  ((List.finRange Config.slots).filterMap fun i =>
    match (s.slot i).window with
    | some w => if start.toNat ≤ w.base.toNat then some ⟨⟨i, (s.slot i).generation⟩, w.base⟩ else none
    | none => none).foldr insertListed []

/-- The results of a LIST: a count, up to 8 handles and bases, and the more indication (R100). -/
def listBytes (s : State) (start : Addr) : List Byte :=
  let all := listedFrom s start
  let batch := all.take Config.listBatch
  [BitVec.ofNat 8 batch.length] ++ batch.flatMap (fun x => handleBytes x.handle ++ addrBytes x.base)
    ++ [markCode (decide (batch.length < all.length))]

def carryList (src : Source) (e : OrderEntry) (s : State) : State :=
  answerOrder src e .done (listBytes s (baseOf e.block)) s

def execList (s : State) : Answer :=
  .next (decideOrder (isCode .list) (plainOrderChecks .list noPlainCheck noPlainCheck) carryList s)

/-! ### READ_STATUS (R190) -/

def freeSlots (s : State) : Nat := (List.finRange Config.slots).countP fun i => (s.slot i).window.isNone

def freeEntries (s : State) : Nat := (List.finRange Config.replyEntries).countP fun i => (s.entry i).isFree

/-- Link state, barred flag and session number of a port; M reports barred no, targets and M session 0 (R190). -/
def portBytes (s : State) (p : Port) : List Byte :=
  let barred := match p with
    | .host h => s.ports.barredHost.get h
    | .target t => s.ports.barredTarget.get t
    | .mgmt => false
  let session : Byte := match p with
    | .host h => s.ports.session.get h
    | _ => 0
  [linkCode (s.link p), markCode barred, session]

/-- The nine ports in code order (R190). -/
def allPorts : List Port := HostId.all.map .host ++ TargetId.all.map .target ++ [.mgmt]

/-- Bit 0 POWER, bit 1 PIN, bit 2 PATH (R190). -/
def causeByte (c : ResetCause) : Byte := markCode c.power ||| markCode c.pin <<< 1 ||| markCode c.path <<< 2

/-- The 43 bytes of READ_STATUS (R190). R40 speaks of egress counts that READ_STATUS reports; R190's table has none, and the
model follows it (log 25). -/
def statusBytes (s : State) : List Byte :=
  beBytes 2 Config.vendorCode.toNat ++ beBytes 2 Config.partCode.toNat
    ++ [Config.revision, BitVec.ofNat 8 (freeSlots s), BitVec.ofNat 8 s.dir.poolFree, BitVec.ofNat 8 (freeEntries s),
        BitVec.ofNat 8 s.eng.drains.length, markCode s.eng.frozen]
    ++ allPorts.flatMap (portBytes s) ++ [causeByte s.ctl.cause]
    ++ beBytes 2 s.eng.replyLimit.toNat ++ beBytes 2 s.eng.drainLimit.toNat
    ++ [optionPortCode (s.dir.fallback.map .target)]

def carryReadStatus (src : Source) (e : OrderEntry) (s : State) : State := answerOrder src e .done (statusBytes s) s

def execReadStatus (s : State) : Answer :=
  .next (decideOrder (isCode .readStatus) (plainOrderChecks .readStatus noPlainCheck noPlainCheck) carryReadStatus s)

/-! ### Unknown order codes (R81) -/

/-- An order whose code names no order is answered UNKNOWN_ORDER before the checks, whatever its source (R81). -/
def execUnknownOrder (s : State) : Answer :=
  .next (decideOrder (fun c => (orderOfCode c).isNone) (fun _ _ _ => some .unknownOrder) (fun _ _ s => s) s)

end Sys2Proof.Machine
end

