-- ==== Sys2Proof/Machine/ManagementOrders.lean ====
section
/-! DEFINITION. The management orders: SET_FALLBACK (chapter 1), SET_RIGHTS and FREEZE (chapter 7), BAR_PORT and ENABLE_PORT
(chapter 8), the event orders (chapter 10), SET_TIMERS, RESET_PATHS and CLEAR_RESET_CAUSE (chapter 11). -/

namespace Sys2Proof.Machine

/-- The seventh check of an order whose operand block reads to a value or to none (R87). -/
def readsOperands {α : Type} (read : List Byte → Option α) : Source → OrderEntry → State → Option Status :=
  fun _ e _ => refuseNone (read e.block)

/-! ### SET_FALLBACK (R25) -/

def carrySetFallback (src : Source) (e : OrderEntry) (s : State) : State :=
  match fallbackOperand e.block with
  | some f => answerOrder src e .done [] (s.setFallback f)
  | none => s

def execSetFallback (s : State) : Answer :=
  .next
    (decideOrder (isCode .setFallback) (plainOrderChecks .setFallback (readsOperands fallbackOperand) noPlainCheck)
      carrySetFallback s)

/-! ### SET_RIGHTS (R138, R139) -/

/-- Rights and allotment as results: the empty mark, then the bounds if it is no (R139). -/
def rightsBytes (r : Rights) (a : Option Range) : List Byte :=
  [rightsCode r, markCode a.isNone] ++ optionBytes (fun g : Range => addrBytes g.base ++ addrBytes g.limit) a

/-- One host's rights and allotment are written (R139). -/
def writeRights (h : HostId) (r : Rights) (a : Option Range) (s : State) : State :=
  { s with eng := { s.eng with rights := s.eng.rights.set h r, allotment := s.eng.allotment.set h a } }

def carrySetRights (src : Source) (e : OrderEntry) (s : State) : State :=
  match rightsOperands e.block with
  | some (h, r, a) =>
    answerOrder src e .done (rightsBytes (s.eng.rights.get h) (s.eng.allotment.get h)) (writeRights h r a s)
  | none => s

def execSetRights (s : State) : Answer :=
  .next
    (decideOrder (isCode .setRights) (plainOrderChecks .setRights (readsOperands rightsOperands) noPlainCheck)
      carrySetRights s)

/-! ### FREEZE (R144) -/

def setFrozen (s : State) : State := { s with eng := { s.eng with frozen := true } }

def carryFreeze (src : Source) (e : OrderEntry) (s : State) : State :=
  answerOrder src e .done [markCode s.eng.frozen] (setFrozen s)

def execFreeze (s : State) : Answer :=
  .next (decideOrder (isCode .freeze) (plainOrderChecks .freeze noPlainCheck noPlainCheck) carryFreeze s)

/-! ### BAR_PORT and ENABLE_PORT (R154) -/

def isBarred (p : Port) (s : State) : Bool :=
  match p with
  | .host h => s.ports.barredHost.get h
  | .target t => s.ports.barredTarget.get t
  | .mgmt => false

/-- A barred flag is set or cleared; M holds none (R154). -/
def writeBarred (p : Port) (b : Bool) (s : State) : State :=
  match p with
  | .host h => { s with ports := { s.ports with barredHost := s.ports.barredHost.set h b } }
  | .target t => { s with ports := { s.ports with barredTarget := s.ports.barredTarget.set t b } }
  | .mgmt => s

def carryBarring (b : Bool) (src : Source) (e : OrderEntry) (s : State) : State :=
  match barOperand e.block with
  | some p => answerOrder src e .done [markCode (isBarred p s)] (writeBarred p b s)
  | none => s

def execBarPort (s : State) : Answer :=
  .next
    (decideOrder (isCode .barPort) (plainOrderChecks .barPort (readsOperands barOperand) noPlainCheck) (carryBarring true) s)

def execEnablePort (s : State) : Answer :=
  .next
    (decideOrder (isCode .enablePort) (plainOrderChecks .enablePort (readsOperands barOperand) noPlainCheck)
      (carryBarring false) s)

/-! ### The event orders (R185 to R188) -/

def settingBytes (n : NotifySetting) : List Byte :=
  optionPortCode (n.host.map .host) :: addrBytes n.address ++ beBytes 4 n.dataBase.toNat

/-- The results of READ_EVENTS (R185; log 16). -/
def eventBytes (e : Events) : List Byte :=
  beBytes 2 e.pending.toNat ++ beBytes 2 e.enabled.toNat
    ++ (List.finRange 12).flatMap (fun i => beBytes 2 e.details[i].toNat)
    ++ [markCode e.noticeOwed] ++ settingBytes e.setting ++ [markCode e.notificationOwed]

def carryReadEvents (src : Source) (e : OrderEntry) (s : State) : State :=
  answerOrder src e .done (eventBytes s.events) s

def execReadEvents (s : State) : Answer :=
  .next (decideOrder (isCode .readEvents) (plainOrderChecks .readEvents noPlainCheck noPlainCheck) carryReadEvents s)

def carryClearEvents (src : Source) (e : OrderEntry) (s : State) : State :=
  answerOrder src e .done (beBytes 2 (flagSetOf e.block &&& s.events.pending).toNat)
    (s.setEvents (clearFlags (flagSetOf e.block) s.events))

def execClearEvents (s : State) : Answer :=
  .next (decideOrder (isCode .clearEvents) (plainOrderChecks .clearEvents noPlainCheck noPlainCheck) carryClearEvents s)

def carrySetEventEnables (src : Source) (e : OrderEntry) (s : State) : State :=
  answerOrder src e .done (beBytes 2 s.events.enabled.toNat) (s.setEvents (enableFlags (flagSetOf e.block) s.events))

/-- SET_EVENT_ENABLES may be an occasion; its NOTICE enters behind its own reply (R187). -/
def execSetEventEnables (s : State) : Answer :=
  .next
    (notify s none
      (decideOrder (isCode .setEventEnables) (plainOrderChecks .setEventEnables noPlainCheck noPlainCheck)
        carrySetEventEnables s))

/-- The setting is written and the notification owed mark cleared (R188). -/
def writeSetting (n : NotifySetting) (s : State) : State :=
  s.setEvents { s.events with setting := n, notificationOwed := false }

def carrySetNotify (src : Source) (e : OrderEntry) (s : State) : State :=
  match notifyOperands e.block with
  | some n => answerOrder src e .done (settingBytes s.events.setting) (writeSetting n s)
  | none => s

def execSetNotify (s : State) : Answer :=
  .next
    (decideOrder (isCode .setNotify) (plainOrderChecks .setNotify (readsOperands notifyOperands) noPlainCheck)
      carrySetNotify s)

/-! ### SET_TIMERS (R189) -/

def writeLimits (r d : BitVec 16) (s : State) : State :=
  { s with eng := { s.eng with replyLimit := r, drainLimit := d } }

def carrySetTimers (src : Source) (e : OrderEntry) (s : State) : State :=
  match timerOperands e.block with
  | some (r, d) =>
    answerOrder src e .done (beBytes 2 s.eng.replyLimit.toNat ++ beBytes 2 s.eng.drainLimit.toNat) (writeLimits r d s)
  | none => s

def execSetTimers (s : State) : Answer :=
  .next
    (decideOrder (isCode .setTimers) (plainOrderChecks .setTimers (readsOperands timerOperands) noPlainCheck) carrySetTimers s)

/-! ### RESET_PATHS (R192, R193) -/

/-- A host's ingress queue is emptied, every credit going back in one CREDIT, and its mark cleared (R51). -/
def flushIngress (h : HostId) (s : State) : State :=
  (returnRequestCredits h (s.ingress h).length (s.setIngress h [])).setMark h .clear

/-- A target's egress queue is emptied, POSTS_LOST being set if it held a POST (R159). -/
def flushEgress (t : TargetId) (s : State) : State := (losePosts isPost t s).setEgress t []

def waitingEntries (s : State) : Nat :=
  (List.finRange Config.replyEntries).countP fun i =>
    match (s.entry i).state with
    | .waiting _ => true
    | _ => false

def queuedPosts (s : State) : Nat := (TargetId.all.map fun t => (s.egress t).countP isPost).sum

def addPathCause (s : State) : State :=
  { s with ctl := { s.ctl with cause := { s.ctl.cause with path := true } } }

/-- The path reset up to the order replies of the drains it completes (R51, R72, R130, R159, R192). -/
def pathReset (s : State) : State :=
  let s := HostId.all.foldl (fun s h => flushIngress h s) s
  let s := leaveWaitingAll (fun _ => true) .aborted s
  let s := TargetId.all.foldl (fun s t => flushEgress t s) s
  let s := completeDrains s
  addPathCause (setPlainFlag .resetSeen s)

/-- The three counts of RESET_PATHS: entries taken out of WAITING, POSTs removed, drain jobs completed (R193). -/
def pathResetBytes (before s : State) : List Byte :=
  [BitVec.ofNat 8 (waitingEntries before), BitVec.ofNat 8 (queuedPosts before),
   BitVec.ofNat 8 (before.eng.drains.length - s.eng.drains.length)]

/-- The path reset, then its own reply behind what it has placed (R193). -/
def carryResetPaths (src : Source) (e : OrderEntry) (s : State) : State :=
  answerOrder src e .done (pathResetBytes s (pathReset s)) (pathReset s)

def execResetPaths (s : State) : Answer :=
  .next
    (notify s none
      (decideOrder (isCode .resetPaths) (plainOrderChecks .resetPaths noPlainCheck noPlainCheck) carryResetPaths s))

/-! ### CLEAR_RESET_CAUSE (R191) -/

def emptyCause (s : State) : State := { s with ctl := { s.ctl with cause := ⟨false, false, false⟩ } }

def carryClearResetCause (src : Source) (e : OrderEntry) (s : State) : State :=
  answerOrder src e .done [causeByte s.ctl.cause] (emptyCause s)

def execClearResetCause (s : State) : Answer :=
  .next
    (decideOrder (isCode .clearResetCause) (plainOrderChecks .clearResetCause noPlainCheck noPlainCheck)
      carryClearResetCause s)

end Sys2Proof.Machine
end

