-- ==== Sys2Proof/Machine/WindowOrders.lean ====
section
/-! DEFINITION. The window orders: OPEN, ACTIVATE, MODIFY, RETIRE, LOCK (chapter 4), ATTACH and DETACH (chapter 5). -/

namespace Sys2Proof.Machine

/-! ### OPEN (R2, R11, R89, R90) -/

/-- The lowest-numbered FREE slot (R2). -/
def lowestFreeSlot (s : State) : Option (Fin Config.slots) :=
  (List.finRange Config.slots).find? fun i => (s.slot i).window.isNone

/-- The seventh check of OPEN (R89). -/
def openOperandCheck (src : Source) (e : OrderEntry) (s : State) : Option Status :=
  match openOperands e.block src with
  | none => some .badOperand
  | some w =>
    firstRefusal [allotmentCheck src (currentSpan w) s, refuseIf (overlapsOther s none (currentSpan w)) .overlap]

def openResourceCheck (_ : Source) (_ : OrderEntry) (s : State) : Option Status :=
  refuseIf (lowestFreeSlot s).isNone .noSlot

/-- The lowest FREE slot is filled at its current generation, and its handle is the result (R2, R11, R90). -/
def carryOpen (src : Source) (e : OrderEntry) (s : State) : State :=
  match openOperands e.block src, lowestFreeSlot s with
  | some w, some i =>
    answerOrder src e .done (handleBytes ⟨i, (s.slot i).generation⟩)
      (s.setSlot i { s.slot i with count := 0, window := some w })
  | _, _ => s

def execOpenWindow (s : State) : Answer :=
  .next (decideOrder (isCode .openWindow) (plainOrderChecks .openWindow openOperandCheck openResourceCheck) carryOpen s)

/-! ### ACTIVATE (R12, R91) -/

def carryActivate (src : Source) (e : OrderEntry) (s : State) : State :=
  match resolve s e.block with
  | .found i w => answerOrder src e .done [] (setWindow i { w with state := .live } s)
  | _ => s

def execActivate (s : State) : Answer :=
  .next
    (decideOrder (isCode .activate) (handleOrderChecks .activate true false noWindowCheck noWindowCheck) carryActivate s)

/-! ### MODIFY (R92 to R95) -/

def ModifyFields.isEmpty (f : ModifyFields) : Bool :=
  !f.movesRange && f.target.isNone && f.access.isNone && f.users.isNone

/-- The BAD_OPERAND cases of a MODIFY on a window (R92, R93). -/
def modifyIsBad (f : ModifyFields) (w : Window) : Bool :=
  f.isEmpty || !boundsFit (f.base.getD w.base) (f.limit.getD w.limit)
    || (f.target.isSome && f.target == mirrorPort w.chain)
    || (f.movesRange &&
      match translateBase w.chain with
      | some b => !translationFits b (modifiedSpan f w).first (modifiedSpan f w).last
      | none => false)

/-- The seventh check of MODIFY (R87, R93). -/
def modifyOperandCheck (i : Fin Config.slots) (w : Window) (e : OrderEntry) (s : State) : Option Status :=
  match modifyOperands e.block, modeOf e.block with
  | some f, some _ =>
    if modifyIsBad f w then some .badOperand
    else if f.movesRange then
      firstRefusal
        [allotmentCheck w.owner (modifiedSpan f w) s, refuseIf (overlapsOther s (some i) (modifiedSpan f w)) .overlap]
    else none
  | _, _ => some .badOperand

def modifyResourceCheck (i : Fin Config.slots) (w : Window) (e : OrderEntry) (s : State) : Option Status :=
  match modifyOperands e.block with
  | some f => drainPlaceCheck (isRouting (.modify f)) i w s
  | none => none

def carryModify (src : Source) (e : OrderEntry) (s : State) : State :=
  match resolve s e.block, modifyOperands e.block, modeOf e.block with
  | .found i w, some f, some m => makeChange i w (.modify f) m src e s
  | _, _, _ => s

def execModify (s : State) : Answer :=
  .next
    (decideOrder (isCode .modify) (handleOrderChecks .modify true true modifyOperandCheck modifyResourceCheck) carryModify s)

/-! ### RETIRE (R96) -/

def retireOperandCheck (_ : Fin Config.slots) (_ : Window) (e : OrderEntry) (_ : State) : Option Status :=
  refuseNone (modeOf e.block)

def retireResourceCheck (i : Fin Config.slots) (w : Window) (_ : OrderEntry) (s : State) : Option Status :=
  drainPlaceCheck true i w s

def carryRetire (src : Source) (e : OrderEntry) (s : State) : State :=
  match resolve s e.block, modeOf e.block with
  | .found i w, some m =>
    if needsDrain true i w s then startDrain i w .drainRetire .retire m src e s
    else answerOrder src e .done [] (freeSlot i s)
  | _, _ => s

def execRetire (s : State) : Answer :=
  .next
    (decideOrder (isCode .retire) (handleOrderChecks .retire true true retireOperandCheck retireResourceCheck) carryRetire s)

/-! ### LOCK (R8, R97) -/

def carryLock (src : Source) (e : OrderEntry) (s : State) : State :=
  match resolve s e.block with
  | .found i w => answerOrder src e .done [] (setWindow i { w with locked := true } s)
  | _ => s

def execLock (s : State) : Answer :=
  .next (decideOrder (isCode .lock) (handleOrderChecks .lock true false noWindowCheck noWindowCheck) carryLock s)

/-! ### ATTACH (R111, R112) -/

def chainHolds (chain : List ExtRecord) (k : ExtKind) : Bool := chain.any fun r => r.kind == k

/-- The seventh check of ATTACH: BAD_OPERAND, then DUPLICATE_KIND (R111). -/
def attachOperandCheck (_ : Fin Config.slots) (w : Window) (e : OrderEntry) (_ : State) : Option Status :=
  match attachOperands e.block w, modeOf e.block with
  | some r, some _ => refuseIf (chainHolds w.chain r.kind) .duplicateKind
  | _, _ => some .badOperand

/-- The eighth check of ATTACH: NO_SPACE, then BUSY (R111). -/
def attachResourceCheck (i : Fin Config.slots) (w : Window) (e : OrderEntry) (s : State) : Option Status :=
  match attachOperands e.block w with
  | some r => firstRefusal [refuseIf (s.dir.poolFree == 0) .noSpace, drainPlaceCheck (isRouting (.attach r)) i w s]
  | none => none

/-- The record is taken from the pool at the decision, whether it is appended at once or waits in a drain (R112). -/
def carryAttach (src : Source) (e : OrderEntry) (s : State) : State :=
  match resolve s e.block with
  | .found i w =>
    match attachOperands e.block w, modeOf e.block with
    | some r, some m => makeChange i w (.attach r) m src e (s.setPoolFree (s.dir.poolFree - 1))
    | _, _ => s
  | _ => s

def execAttach (s : State) : Answer :=
  .next
    (decideOrder (isCode .attach) (handleOrderChecks .attach true true attachOperandCheck attachResourceCheck) carryAttach s)

/-! ### DETACH (R113, R114) -/

def detachOperandCheck (_ : Fin Config.slots) (w : Window) (e : OrderEntry) (_ : State) : Option Status :=
  match kindOf e.block, modeOf e.block with
  | some k, some _ => refuseIf (!chainHolds w.chain k) .badOperand
  | _, _ => some .badOperand

def detachResourceCheck (i : Fin Config.slots) (w : Window) (e : OrderEntry) (s : State) : Option Status :=
  match kindOf e.block with
  | some k => drainPlaceCheck (isRouting (.detach k)) i w s
  | none => none

def carryDetach (src : Source) (e : OrderEntry) (s : State) : State :=
  match resolve s e.block, kindOf e.block, modeOf e.block with
  | .found i w, some k, some m => makeChange i w (.detach k) m src e s
  | _, _, _ => s

def execDetach (s : State) : Answer :=
  .next
    (decideOrder (isCode .detach) (handleOrderChecks .detach true true detachOperandCheck detachResourceCheck) carryDetach s)

end Sys2Proof.Machine
end

