-- ==== Sys2Proof/Machine/Dispatch.lean ====
section
/-! DEFINITION. The meaning of every command: one arm per row of spec/opcode_table.json, in its order. -/

namespace Sys2Proof.Machine

def exec (i : Instr) (s : State) : Host.Outcome State Fault Refusal :=
  match i with
  | .powerOn resetHigh => Sys2Proof.Machine.execPowerOn resetHigh s
  | .pinReset => Sys2Proof.Machine.execPinReset s
  | .resetNRelease => Sys2Proof.Machine.execResetNRelease s
  | .startUpEnd => Sys2Proof.Machine.execStartUpEnd s
  | .start p sym => Sys2Proof.Machine.execStart p sym s
  | .partStartSent p => Sys2Proof.Machine.execPartStartSent p s
  | .stop p sym => Sys2Proof.Machine.execStop p sym s
  | .restart p sym => Sys2Proof.Machine.execRestart p sym s
  | .credit p sym => Sys2Proof.Machine.execCredit p sym s
  | .lossOfSignal p => Sys2Proof.Machine.execLossOfSignal p s
  | .post h f => Sys2Proof.Machine.execPost h f s
  | .fetch h f => Sys2Proof.Machine.execFetch h f s
  | .order src f => Sys2Proof.Machine.execOrder src f s
  | .reply t f => Sys2Proof.Machine.execReply t f s
  | .misdirectedPacket p kind f => Sys2Proof.Machine.execMisdirectedPacket p kind f s
  | .forwardAttempt h => Sys2Proof.Machine.execForwardAttempt h s
  | .delivery t => Sys2Proof.Machine.execDelivery t s
  | .returnQueueSending src => Sys2Proof.Machine.execReturnQueueSending src s
  | .replyTimerExpiry n => Sys2Proof.Machine.execReplyTimerExpiry n s
  | .drainTimerExpiry n => Sys2Proof.Machine.execDrainTimerExpiry n s
  | .query => Sys2Proof.Machine.execQuery s
  | .find => Sys2Proof.Machine.execFind s
  | .list => Sys2Proof.Machine.execList s
  | .readStatus => Sys2Proof.Machine.execReadStatus s
  | .openWindow => Sys2Proof.Machine.execOpenWindow s
  | .activate => Sys2Proof.Machine.execActivate s
  | .modify => Sys2Proof.Machine.execModify s
  | .retire => Sys2Proof.Machine.execRetire s
  | .lock => Sys2Proof.Machine.execLock s
  | .attach => Sys2Proof.Machine.execAttach s
  | .detach => Sys2Proof.Machine.execDetach s
  | .setFallback => Sys2Proof.Machine.execSetFallback s
  | .setRights => Sys2Proof.Machine.execSetRights s
  | .freeze => Sys2Proof.Machine.execFreeze s
  | .barPort => Sys2Proof.Machine.execBarPort s
  | .enablePort => Sys2Proof.Machine.execEnablePort s
  | .readEvents => Sys2Proof.Machine.execReadEvents s
  | .clearEvents => Sys2Proof.Machine.execClearEvents s
  | .setEventEnables => Sys2Proof.Machine.execSetEventEnables s
  | .setNotify => Sys2Proof.Machine.execSetNotify s
  | .setTimers => Sys2Proof.Machine.execSetTimers s
  | .resetPaths => Sys2Proof.Machine.execResetPaths s
  | .clearResetCause => Sys2Proof.Machine.execClearResetCause s
  | .unknownOrder => Sys2Proof.Machine.execUnknownOrder s
  | .lossOfSupply => Sys2Proof.Machine.execLossOfSupply s
  | .malformedSymbol p bytes => Sys2Proof.Machine.execMalformedSymbol p bytes s

end Sys2Proof.Machine
end

