-- ==== Sys2Proof/WellFormed.lean ====
section
/-! DEFINITION. Which terms are commands the rows of the table describe. exec has a meaning for every term all the same. -/

namespace Sys2Proof

open Machine

/-- A framed packet: one whose framed size was below 18 bytes has no payload to speak of (R161, log 13). -/
def Frame.wf (f : Frame) : Bool := !f.cut || f.payload.isEmpty

/-- The kind code is not one the port takes in (R163). -/
def isMisdirected (p : Port) (kind : Byte) : Bool := !takesKind p kind

/-- A framed symbol of the wrong size, or with a code outside 01h to 04h (R173). -/
def isMalformedSymbol (bytes : List Byte) : Bool :=
  bytes.length != 8 ||
    match bytes.head? with
    | some c => !([symStart, symStop, symRestart, symCredit].contains c)
    | none => true

/-- The term is a command of its row. -/
def WellFormed : Instr → Bool
  | .post _ f => f.wf
  | .fetch _ f => f.wf
  | .order _ f => f.wf
  | .reply _ f => f.wf
  | .misdirectedPacket p k f => isMisdirected p k && f.wf
  | .malformedSymbol _ bytes => isMalformedSymbol bytes
  | .powerOn _ => true
  | .pinReset => true
  | .resetNRelease => true
  | .startUpEnd => true
  | .start _ _ => true
  | .partStartSent _ => true
  | .stop _ _ => true
  | .restart _ _ => true
  | .credit _ _ => true
  | .lossOfSignal _ => true
  | .forwardAttempt _ => true
  | .delivery _ => true
  | .returnQueueSending _ => true
  | .replyTimerExpiry _ => true
  | .drainTimerExpiry _ => true
  | .query => true
  | .find => true
  | .list => true
  | .readStatus => true
  | .openWindow => true
  | .activate => true
  | .modify => true
  | .retire => true
  | .lock => true
  | .attach => true
  | .detach => true
  | .setFallback => true
  | .setRights => true
  | .freeze => true
  | .barPort => true
  | .enablePort => true
  | .readEvents => true
  | .clearEvents => true
  | .setEventEnables => true
  | .setNotify => true
  | .setTimers => true
  | .resetPaths => true
  | .clearResetCause => true
  | .unknownOrder => true
  | .lossOfSupply => true

end Sys2Proof
end

