-- ==== Sys2Proof/Safety.lean ====
section
/-! DEFINITION. What is claimed of the part, in the terms the claims use: the invariants that every event keeps, the conditions
under which an order is decided and passes its checks, and the relations between the state before and after an event. -/

namespace Sys2Proof.Machine

/-! ### Invariants of the Window Directory -/

/-- The records a slot has out of the pool: its chain, and the one that a pending attach holds (R101, R102). -/
def recordsOut (x : Slot) : Nat :=
  match x.window with
  | none => 0
  | some w =>
    w.chain.length +
      match w.state with
      | .drainChange (.attach _) => 1
      | _ => 0

/-- Free records and records in use make up the pool (R101, R102). -/
def PoolBalanced (s : State) : Prop :=
  s.dir.poolFree + ((List.finRange Config.slots).map fun i => recordsOut (s.slot i)).sum = Config.poolRecords

/-- The fields of a window keep R5, R9, R102, R104, R106 and R108. -/
structure FieldsFit (w : Window) : Prop where
  base_granule : w.base.toNat % 4096 = 0
  limit_granule : w.limit.toNat % 4096 = 4095
  ordered : w.base.toNat ≤ w.limit.toNat
  kinds : (w.chain.map ExtRecord.kind).Nodup
  translate : ∀ b, .translate b ∈ w.chain →
    b.toNat % 4096 = 0 ∧ b.toNat + (w.limit.toNat - w.base.toNat) ≤ Config.lastAddress
  guard : ∀ es, .guard es ∈ w.chain → 1 ≤ es.length ∧ es.length ≤ 4 ∧ (es.map Prod.fst).Nodup
  mirror : ∀ t, .mirror t ∈ w.chain → t ≠ w.target

/-- A window with a change carried out (R123). -/
def changed : PendingChange → Window → Window
  | .modify f, w => applyModify f w
  | .attach r, w => { w with chain := w.chain ++ [r] }
  | .detach k, w => { w with chain := dropKind k w.chain }

/-- Every window's fields fit, and so do those it will have when its pending change is applied (R5, R10, R104, R108, R123). -/
def WindowsFit (s : State) : Prop :=
  ∀ i w, (s.slot i).window = some w →
    FieldsFit w ∧ ∀ c, w.state = .drainChange c → FieldsFit (changed c w)

/-- The slot reserves a byte address (R17). -/
def ReservedAt (s : State) (i : Fin Config.slots) (a : Nat) : Prop :=
  ∃ p ∈ slotReserved (s.slot i), p.first ≤ a ∧ a ≤ p.last

/-- No address is reserved by two slots (R18). -/
def RangesDisjoint (s : State) : Prop := ∀ i j a, ReservedAt s i a → ReservedAt s j a → i = j

/-- A locked window is LIVE (R8, R143). -/
def LockedLive (s : State) : Prop := ∀ i w, (s.slot i).window = some w → w.locked = true → w.state = .live

/-! ### Invariants of counts and drains -/

/-- The WAITING entries whose route a test picks. -/
def entriesNaming (s : State) (picks : Route → Bool) : Nat :=
  (List.finRange Config.replyEntries).countP fun i =>
    match (s.entry i).state with
    | .waiting w => picks w.route
    | _ => false

/-- The route that an egress packet names: a POST its own, a FETCH none (R151). -/
def namedRoute : EgressPacket → Option Route
  | .post r _ _ _ => some r
  | .fetch _ _ _ _ => none

/-- The egress packets whose named route a test picks. -/
def packetsNaming (s : State) (picks : Route → Bool) : Nat :=
  (TargetId.all.map fun t => (s.egress t).countP fun pkt => ((namedRoute pkt).map picks).getD false).sum

/-- Everything that names a route. -/
def inFlight (s : State) (r : Route) : Nat := entriesNaming s (· == r) + packetsNaming s (· == r)

/-- Some WAITING entry or egress packet names the route. -/
def Named (s : State) (r : Route) : Prop :=
  (∃ i w, (s.entry i).state = .waiting w ∧ w.route = r) ∨ ∃ t, ∃ pkt ∈ s.egress t, namedRoute pkt = some r

/-- In-flight counts are what R21 says, whatever names a window names the one now in its slot, and FREE slots and STAGED windows
count zero (R4, R12, R21). -/
structure CountsMatch (s : State) : Prop where
  windows : ∀ i, (s.slot i).count = inFlight s (.window ⟨i, (s.slot i).generation⟩)
  fallback : s.dir.fallbackCount = inFlight s .fallback
  current : ∀ h, Named s (.window h) → h.generation = (s.slot h.slot).generation
  free : ∀ i, (s.slot i).window = none → (s.slot i).count = 0
  staged : ∀ i w, (s.slot i).window = some w → w.state = .staged → (s.slot i).count = 0

/-- The purpose for which a state drains (R10). -/
def drainPurpose : WindowState → Option Purpose
  | .drainRetire => some .retire
  | .drainChange _ => some .change
  | _ => none

/-- Each drain job follows exactly one DRAINING window and each DRAINING window is followed by exactly one job, with its handle
and purpose, and there are at most 8 (R117, R118). -/
structure DrainsFollowWindows (s : State) : Prop where
  bound : s.eng.drains.length ≤ Config.drainPlaces
  distinct : (s.eng.drains.map fun j => j.handle.slot).Nodup
  followed : ∀ i w, (s.slot i).window = some w → isDraining w.state = true → ∃ j ∈ s.eng.drains, j.handle.slot = i
  follows : ∀ j ∈ s.eng.drains, ∃ w, (s.slot j.handle.slot).window = some w ∧
    (s.slot j.handle.slot).generation = j.handle.generation ∧ drainPurpose w.state = some j.purpose

/-- Each drain job holds one TAKEN entry of its source's order queue, and each TAKEN entry is held by a job (R75, R118). -/
structure TakenFollowsDrains (s : State) : Prop where
  held : ∀ j ∈ s.eng.drains, ∃ e ∈ s.orders j.source,
    e.state = .taken j.handle.slot ∧ e.sequence = j.sequence ∧ e.code = j.code
  once : ∀ src i, (s.orders src).countP (isTakenFor i) ≤ 1
  holder : ∀ src, ∀ e ∈ s.orders src, ∀ i, e.state = .taken i → ∃ j ∈ s.eng.drains, j.handle.slot = i ∧ j.source = src

/-- A DRAINING window has traffic in flight: its drain completes at the event that brings its count to zero (R23, R122). -/
def DrainingHasTraffic (s : State) : Prop :=
  ∀ i w, (s.slot i).window = some w → isDraining w.state = true → (s.slot i).count ≠ 0

/-! ### Invariants of requests and replies -/

/-- Host and source tag of an entry that is in use in its host's current session (R54). -/
def currentTag (e : Entry) : Option (HostId × BitVec 8) :=
  match e.state with
  | .free => none
  | .waiting w => if w.orphan then none else some (w.host, w.tag)
  | .answered a => some (a.host, a.tag)

/-- The session an entry in use in its host's current session was allocated in (R53). -/
def currentSession (e : Entry) : Option (HostId × BitVec 8) :=
  match e.state with
  | .free => none
  | .waiting w => if w.orphan then none else some (w.host, w.session)
  | .answered a => some (a.host, a.session)

/-- No two entries of one host's current session carry one source tag (R54), and what is not an orphan belongs to its host's
current session (R53, R67). -/
structure TagsDistinct (s : State) : Prop where
  tags : ∀ i j x, currentTag (s.entry i) = some x → currentTag (s.entry j) = some x → i = j
  sessions : ∀ i h n, currentSession (s.entry i) = some (h, n) → n = s.ports.session.get h

/-- A FETCH stands in an egress queue only while its entry is WAITING, in that entry's target's queue, under the entry's epoch,
and once (R56). -/
structure EgressFollowsEntries (s : State) : Prop where
  waiting : ∀ t i ep a n, .fetch i ep a n ∈ s.egress t →
    (s.entry i).epoch = ep ∧ ∃ w, (s.entry i).state = .waiting w ∧ w.target = t ∧ w.length = n
  once : ∀ t i, (s.egress t).countP (isFetchOf i) ≤ 1

/-- The queues keep to their places (R29, R73, R151). -/
structure QueuesFit (s : State) : Prop where
  ingress : ∀ h, (s.ingress h).length ≤ Config.ingressPlaces
  orders : ∀ src, placesUsed (s.orders src) ≤ Config.orderPlaces src
  egress : ∀ t, (s.egress t).length ≤ Config.egressPlaces

/-! ### Invariants of ports -/

/-- While a port is UP, the unused grants equal the free places of the queues they feed (R150, R167); while it is not UP they
are zero. -/
structure CreditsMatch (s : State) : Prop where
  request : ∀ h, s.link (.host h) = .up → s.ports.grantedRequest.get h + (s.ingress h).length = Config.ingressPlaces
  order : ∀ src, s.link src.port = .up → s.ports.grantedOrder.get src + placesUsed (s.orders src) = Config.orderPlaces src
  noRequest : ∀ h, s.link (.host h) ≠ .up → s.ports.grantedRequest.get h = 0
  noOrder : ∀ src, s.link src.port ≠ .up → s.ports.grantedOrder.get src = 0

/-- A port that is not UP has nothing of a session in the part but orphans and silent TAKEN entries (R50, R63, R67, R76, R148,
R156 to R158); while ports are not enabled every link is DOWN (R178). -/
structure DownPortsEmpty (s : State) : Prop where
  ingress : ∀ h, s.link (.host h) ≠ .up → s.ingress h = [] ∧ s.mark h = .clear
  entries : ∀ h, s.link (.host h) ≠ .up → ∀ i x, currentTag (s.entry i) = some x → x.1 ≠ h
  orders : ∀ src, s.link src.port ≠ .up → ∀ e ∈ s.orders src, isTaken e = true ∧ e.silent = true
  returns : ∀ src, s.link src.port ≠ .up → s.returns src = []
  egress : ∀ t, s.link (.target t) ≠ .up → s.egress t = []
  waiting : ∀ t, s.link (.target t) ≠ .up → ∀ i w, (s.entry i).state = .waiting w → w.target ≠ t
  disabled : s.ctl.phase = .held ∨ s.ctl.phase = .startUp → ∀ p, s.link p = .down

def isOrderReply : ReturnPacket → Bool
  | .orderReply _ _ _ _ => true
  | _ => false

/-- The entry a REPLY in a return queue stands for. -/
def replyEntry : ReturnPacket → Option (Fin Config.replyEntries)
  | .reply i _ _ _ => some i
  | _ => none

/-- What stands in the return queues: a REPLY for each of distinct ANSWERED entries of the host, an ORDER_REPLY for each of
distinct ANSWERED orders of the source, at most one notification POST, and in M's queue at most one NOTICE (R65, R75, R152,
R153). Silent entries are TAKEN ones (R76). -/
structure ReturnsMatch (s : State) : Prop where
  replies : ∀ h, ((s.returns (.host h)).filterMap replyEntry).Nodup
  answered : ∀ h i, i ∈ (s.returns (.host h)).filterMap replyEntry → ∃ a, (s.entry i).state = .answered a ∧ a.host = h
  mgmtReplies : (s.returns .mgmt).filterMap replyEntry = []
  orders : ∀ src, (s.returns src).countP isOrderReply ≤ (s.orders src).countP (fun e => e.state == .answered)
  silent : ∀ src, ∀ e ∈ s.orders src, e.silent = true → isTaken e = true
  notices : (s.returns .mgmt).countP isNotice ≤ 1 ∧ ∀ h, (s.returns (.host h)).countP isNotice = 0
  notifications : (∀ h, (s.returns (.host h)).countP isNotification ≤ 1) ∧ (s.returns .mgmt).countP isNotification = 0

/-! ### Events and control -/

/-- NOTE_N is asserted exactly while some flag is both pending and enabled (R181), while the part has its supplies (log 9). -/
def NoteFollowsFlags (s : State) : Prop :=
  s.ctl.phase ≠ .unpowered →
    (s.events.noteN = true ↔ ∃ i : Fin 12, s.events.pending.getLsbD i.val = true ∧ s.events.enabled.getLsbD i.val = true)

/-! ### Between two states -/

/-- Pending and detail of a flag after it has been set with ports, NOTE_N following (R179, R181). -/
def FlagRaised (f : Flag) (ports : BitVec 9) (s t : State) : Prop :=
  t.events.pending = s.events.pending ||| f.mask ∧ t.events.enabled = s.events.enabled ∧
    t.events.details = s.events.details.set f.bit.val (s.events.details[f.bit] ||| ports) f.bit.isLt ∧
    (t.events.noteN = true ↔ t.events.pending &&& t.events.enabled ≠ 0) ∧ t.events.setting = s.events.setting

/-- The flag is pending and its detail set holds the port (R179). -/
def FlagShows (f : Flag) (p : Port) (t : State) : Prop :=
  t.events.pending.getLsbD f.bit.val = true ∧ (t.events.details[f.bit] &&& portMask p) = portMask p

/-- Return queues gain at most a NOTICE in M's and a notification POST in a host's (R179, R182, R183). -/
def NoticesOnly (s t : State) : Prop :=
  (t.returns .mgmt = s.returns .mgmt ∨ ∃ fs, t.returns .mgmt = s.returns .mgmt ++ [.notice fs]) ∧
    ∀ h, t.returns (.host h) = s.returns (.host h) ∨
      ∃ a v, t.returns (.host h) = s.returns (.host h) ++ [.notification a v]

/-- An occasion at which a set of flags is pending and enabled has reached M and the notified host: each has its packet at the
tail of its return queue, if it is UP with no such packet there, and else is owed it; a barred host gets neither; no other host's
queue differs (R182, R183). -/
def OccasionReaches (active : BitVec 12) (s t : State) : Prop :=
  (if s.link .mgmt = .up ∧ (s.returns .mgmt).any isNotice = false then
    t.returns .mgmt = s.returns .mgmt ++ [.notice active] ∧ t.events.noticeOwed = s.events.noticeOwed
  else t.returns .mgmt = s.returns .mgmt ∧ t.events.noticeOwed = true) ∧
  (∀ h, s.events.setting.host = some h → s.ports.barredHost.get h = false →
    if s.link (.host h) = .up ∧ (s.returns (.host h)).any isNotification = false then
      t.returns (.host h) = s.returns (.host h) ++
        [.notification s.events.setting.address (s.events.setting.dataBase + BitVec.ofNat 32 (topPriority active))] ∧
      t.events.notificationOwed = s.events.notificationOwed
    else t.returns (.host h) = s.returns (.host h) ∧ t.events.notificationOwed = true) ∧
  (∀ h, s.events.setting.host ≠ some h ∨ s.ports.barredHost.get h = true → t.returns (.host h) = s.returns (.host h)) ∧
  ((∀ h, s.events.setting.host = some h → s.ports.barredHost.get h = true) →
    t.events.notificationOwed = s.events.notificationOwed)

/-- Nothing differs but order queues, the arbiter's position and return queues. -/
def AnswerFrame (s t : State) : Prop :=
  t = { s with
    eng := { s.eng with orders := t.eng.orders, position := t.eng.position }
    ports := { s.ports with returns := t.ports.returns } }

/-- The order the arbiter serves has its reply: its entry, the oldest QUEUED one of its source, is ANSWERED, the ORDER_REPLY
stands at the tail of the source's return queue, the position is the source, and no other source's queues differ
(R75, R78 to R80). -/
def OrderAnswered (src : Source) (e : OrderEntry) (status : Status) (results : List Byte) (s t : State) : Prop :=
  t.eng.position = src ∧
    t.returns src = s.returns src ++ [.orderReply e.sequence e.code status results] ∧
    (∃ older newer, (∀ x ∈ older, x.state ≠ .queued) ∧ s.orders src = older ++ e :: newer ∧
      t.orders src = older ++ { e with state := .answered } :: newer) ∧
    ∀ other, other ≠ src → t.orders other = s.orders other ∧ t.returns other = s.returns other

/-- The order the arbiter serves waits for the drain of a slot's window: its entry is TAKEN and no reply is queued
(R75, R79, R119). -/
def OrderTaken (src : Source) (e : OrderEntry) (i : Fin Config.slots) (s t : State) : Prop :=
  t.eng.position = src ∧ (∀ other, t.returns other = s.returns other) ∧
    (∃ older newer, (∀ x ∈ older, x.state ≠ .queued) ∧ s.orders src = older ++ e :: newer ∧
      t.orders src = older ++ { e with state := .taken i } :: newer) ∧
    ∀ other, other ≠ src → t.orders other = s.orders other

/-! ### Orders -/

/-- The command that decides an order. -/
def OrderName.command : OrderName → Instr
  | .query => .query
  | .find => .find
  | .list => .list
  | .readStatus => .readStatus
  | .openWindow => .openWindow
  | .activate => .activate
  | .modify => .modify
  | .retire => .retire
  | .lock => .lock
  | .attach => .attach
  | .detach => .detach
  | .setFallback => .setFallback
  | .setRights => .setRights
  | .freeze => .freeze
  | .barPort => .barPort
  | .enablePort => .enablePort
  | .readEvents => .readEvents
  | .clearEvents => .clearEvents
  | .setEventEnables => .setEventEnables
  | .setNotify => .setNotify
  | .setTimers => .setTimers
  | .resetPaths => .resetPaths
  | .clearResetCause => .clearResetCause

/-- The part is running and the order the arbiter decides next is the source's oldest QUEUED entry, with the order's code
(R78, R166). -/
def Decides (s : State) (src : Source) (e : OrderEntry) (o : OrderName) : Prop :=
  s.ctl.phase = .running ∧ nextOrder s = some (src, e) ∧ e.code = orderCode o

/-- The source passes the first check for view orders (R82). -/
def MayView (s : State) : Source → Prop
  | .mgmt => True
  | .host h => s.ports.barredHost.get h = false ∧ s.eng.rights.get h ≠ .none

/-- The source passes the first check for window orders (R82). -/
def MayChange (s : State) : Source → Prop
  | .mgmt => True
  | .host h => s.ports.barredHost.get h = false ∧ s.eng.rights.get h = .own

/-- The source passes the first check for an order (R82). -/
def MayOrder (s : State) (src : Source) (o : OrderName) : Prop :=
  match o.cls with
  | .view => MayView s src
  | .window => MayChange s src
  | .management => src = .mgmt

/-- The operand block's handle names the window of a slot (R1). -/
def NamesWindow (s : State) (b : List Byte) (i : Fin Config.slots) (w : Window) : Prop :=
  (blockByte b 0).toNat = i.val ∧ (s.slot i).window = some w ∧ (s.slot i).generation = blockByte b 1

/-- The source passes the ownership check (R85). -/
def Owns (src : Source) (w : Window) : Prop := src = .mgmt ∨ w.owner = src

/-- The slot's window is replaced and nothing else of the directory differs. -/
def WindowBecomes (i : Fin Config.slots) (w : Option Window) (generation : BitVec 8) (poolFree : Nat) (s t : State) : Prop :=
  t.dir = { s.dir with
    slots := s.dir.slots.set i.val ⟨generation, (s.slot i).count, w⟩ i.isLt
    poolFree := poolFree }

/-- Nothing differs but order queues, position, return queues and the directory. -/
def DirectoryFrame (s t : State) : Prop :=
  t = { s with
    dir := t.dir
    eng := { s.eng with orders := t.eng.orders, position := t.eng.position }
    ports := { s.ports with returns := t.ports.returns } }

/-- Nothing differs but order queues, position, return queues, the directory and the drain list. -/
def DrainFrame (s t : State) : Prop :=
  t = { s with
    dir := t.dir
    eng := { s.eng with orders := t.eng.orders, position := t.eng.position, drains := t.eng.drains }
    ports := { s.ports with returns := t.ports.returns } }

/-! ### Requests -/

/-- The head has left a host's ingress queue and its REQUEST credit has gone back (R30). -/
def HeadTaken (h : HostId) (s t : State) : Prop :=
  t.fwd = { s.fwd with ingress := s.fwd.ingress.set h (s.ingress h).tail } ∧
    t.ports.grantedRequest = s.ports.grantedRequest.set h (s.ports.grantedRequest.get h + 1) ∧
    t.sent = s.sent ++ [(.host h, .credit .request 1)]

/-- A head that stands before its first attempt: the part runs, the host's queue has this head, and it does not wait (R31). -/
def FreshHead (s : State) (h : HostId) (r : Request) : Prop :=
  s.ctl.phase = .running ∧ s.mark h = .clear ∧ (s.ingress h).head? = some r

/-- The FETCH's tag is in use by an entry of the host's current session (R32, R54). -/
def DuplicateTag (s : State) (h : HostId) (tag : BitVec 8) : Prop := ∃ i, currentTag (s.entry i) = some (h, tag)

/-- The lowest-numbered FREE entry (R53). -/
def LowestFree (s : State) (i : Fin Config.replyEntries) : Prop :=
  (s.entry i).state = .free ∧ ∀ j, j < i → (s.entry j).state ≠ .free

/-- No host waits, so that what an event frees is offered to none (R46, R47). -/
def NoHostWaits (s : State) : Prop := ∀ h, s.mark h = .clear

/-- No window drains, so that no count that reaches zero completes a drain (R23). -/
def NoDrains (s : State) : Prop := s.eng.drains = []

/-- Every window keeps its record and every slot its generation. -/
def WindowsKept (s t : State) : Prop :=
  ∀ i, (t.slot i).window = (s.slot i).window ∧ (t.slot i).generation = (s.slot i).generation

/-- The count that a route has goes by `step` to a new value and nothing else of the directory differs (R21). -/
def CountChanges (r : Route) (change : Nat → Nat) (s t : State) : Prop :=
  match r with
  | .window h => t.dir = { s.dir with
      slots := s.dir.slots.set h.slot.val { s.slot h.slot with count := change (s.slot h.slot).count } h.slot.isLt }
  | .fallback => t.dir = { s.dir with fallbackCount := change s.dir.fallbackCount }

/-- Nothing differs but what an attempt that sets a flag, or none, may change: the host's ingress queue, its unused REQUEST
grant, return queues, the events and what has left. -/
def HeadFrame (s t : State) : Prop :=
  t = { s with
    fwd := t.fwd
    ports := { s.ports with grantedRequest := t.ports.grantedRequest, returns := t.ports.returns }
    events := t.events
    sent := t.sent }

/-- A flag is set with its port, notices may follow, and nothing else differs (R179). -/
def FlagOnly (f : Flag) (p : Port) (s t : State) : Prop :=
  FlagRaised f (portMask p) s t ∧ NoticesOnly s t ∧
    t = { s with ports := { s.ports with returns := t.ports.returns }, events := t.events }

/-- The head's attempt lacks resources: the waiting mark holds each that is not free (R39, R40). -/
def LacksFor (s : State) (h : HostId) (r : Request) (m : WaitMark) : Prop :=
  match r, lookup s h r with
  | .fetch tag _ _, .refused _ =>
    ¬DuplicateTag s h tag ∧ (m.entry = true ↔ ¬∃ i, (s.entry i).state = .free) ∧ ∀ t, m.places.get t = false
  | .fetch tag _ _, .forward hop =>
    ¬DuplicateTag s h tag ∧ (m.entry = true ↔ ¬∃ i, (s.entry i).state = .free) ∧
      ∀ t, m.places.get t = true ↔ t = hop.target ∧ Config.egressPlaces ≤ (s.egress t).length
  | .post _ _, .forward hop =>
    m.entry = false ∧
      ∀ t, m.places.get t = true ↔
        (t = hop.target ∨ hop.mirror = some t ∧ targetOpen t s = true) ∧ Config.egressPlaces ≤ (s.egress t).length
  | .post _ _, .refused _ => False

/-! ### Who gets what an event frees -/

/-- What an event may free and hosts may wait for: a reply entry, or a place of an egress queue (R46, R47). -/
inductive Freed where
  | entry (i : Fin Config.replyEntries)
  | place (g : TargetId)
deriving DecidableEq, Repr

/-- The host's waiting mark names it (R40). -/
def Freed.wantedBy (h : HostId) (s : State) : Freed → Bool
  | .entry _ => (s.mark h).entry
  | .place g => (s.mark h).places.get g

/-- The forward attempt that its offer gives a host; on the offer of an entry the attempt allocates that entry (R46, R47,
R53). -/
def Freed.attemptBy (h : HostId) (s : State) : Freed → State
  | .entry i => attempt h (some i) s
  | .place _ => attempt h none s

/-- An attempt has taken it: the entry is allocated, or a packet has entered the queue (R46, R47). -/
def Freed.TakenIn (s t : State) : Freed → Prop
  | .entry i => (t.entry i).state ≠ .free
  | .place g => (s.egress g).length < (t.egress g).length

/-- The round-robin position of its offers (R46, R47). -/
def Freed.position (s : State) : Freed → HostId
  | .entry _ => s.table.position
  | .place g => s.ports.egressPosition.get g

/-- The position becomes a host, and nothing else differs (R46, R47). -/
def Freed.servedTo (h : HostId) (s : State) : Freed → State
  | .entry _ => { s with table := { s.table with position := h } }
  | .place g => { s with ports := { s.ports with egressPosition := s.ports.egressPosition.set g h } }

/-- The hosts in the order H0, H1, H2, H3, H0 and so on, starting after one (R46, R47). -/
def turnsAfter (h : HostId) : List HostId := HostId.all.rotate (h.index + 1)

/-- It goes through hosts in order: a host that does not wait for it is passed over, each that does takes an attempt, and the
first whose attempt takes it becomes the position; if none does, the position stays (R46, R47, R49). -/
def HandedTo (x : Freed) : List HostId → State → State → Prop
  | [], s, t => t = s
  | h :: hs, s, t =>
    (x.wantedBy h s = false → HandedTo x hs s t) ∧
      (x.wantedBy h s = true →
        (x.TakenIn s (x.attemptBy h s) → t = x.servedTo h (x.attemptBy h s)) ∧
        (¬x.TakenIn s (x.attemptBy h s) → HandedTo x hs (x.attemptBy h s) t))

/-- What has been freed is offered in turn, one after the other (R46, R47). -/
def HandedOut : List Freed → State → State → Prop
  | [], s, t => t = s
  | x :: xs, s, t => ∃ u, HandedTo x (turnsAfter (x.position s)) s u ∧ HandedOut xs u t

/-- What has become free between two states, in the order of its offers: the entries in increasing index order, then the places,
T0 to T3 (R47); every place counts, whether or not an earlier offer fills its queue (log 26). -/
def freedBy (s u : State) : List Freed :=
  ((List.finRange Config.replyEntries).filter fun i => (s.entry i).state != .free && (u.entry i).state == .free).map .entry ++
    TargetId.all.flatMap fun g => List.replicate ((s.egress g).length - (u.egress g).length) (.place g)

/-- Nothing follows but a NOTICE and a notification POST at the tails of their queues, and the owed marks (R179). -/
def NoticesFollow (s t : State) : Prop :=
  NoticesOnly s t ∧
    t = { s with
      ports := { s.ports with returns := t.ports.returns }
      events := { s.events with noticeOwed := t.events.noticeOwed, notificationOwed := t.events.notificationOwed } }

/-- The end of an event that begins in one state and has come to another: what it has freed is handed out, and notices follow
(R46, R47, R179). -/
def HandOut (s u t : State) : Prop := ∃ v, HandedOut (freedBy s u) u v ∧ NoticesFollow v t

/-- The host is the first after a position, of those that wait for it (R46, R47). -/
def FirstInTurn (x : Freed) (s : State) (h : HostId) : Prop :=
  ∃ passed later, turnsAfter (x.position s) = passed ++ h :: later ∧ (∀ k ∈ passed, x.wantedBy k s = false) ∧
    x.wantedBy h s = true

/-- Every drain job's window has traffic left, so that no drain completes (R23). -/
def NoDrainEnds (s : State) : Prop := ∀ j ∈ s.eng.drains, (s.slot j.handle.slot).count ≠ 0

/-! ### Drains that complete -/

/-- The drain of a slot's window has completed: the change is applied as a whole or the slot is FREE, the job has left the list
and the others keep their order, and the order is answered DONE behind the packets given, directly where no host waits, or its
silent entry removed; no other window has changed (R122 to R124). -/
structure DrainCompletes (j : DrainJob) (w : Window) (e : OrderEntry) (ahead : List ReturnPacket) (s t : State) : Prop where
  change : ∀ c, w.state = .drainChange c →
    (t.slot j.handle.slot).window = some { changed c w with state := .live } ∧
      (t.slot j.handle.slot).generation = (s.slot j.handle.slot).generation
  retire : w.state = .drainRetire →
    (t.slot j.handle.slot).window = none ∧ (t.slot j.handle.slot).generation = (s.slot j.handle.slot).generation + 1
  drains : t.eng.drains = s.eng.drains.filter (fun k => k.handle.slot != j.handle.slot)
  answered : e.silent = false →
    (∃ between, ahead ++ between ++ [.orderReply e.sequence e.code .done []] <+: t.returns j.source ∧
        (NoHostWaits s → between = [])) ∧
      { e with state := .answered } ∈ t.orders j.source
  removed : e.silent = true → t.orders j.source = (s.orders j.source).erase e
  others : ∀ i, i ≠ j.handle.slot → (t.slot i).window = (s.slot i).window

/-- The job whose window is down to its last item, with the window and the order entry it holds (R21, R118, R122). -/
structure LastOf (r : Route) (j : DrainJob) (w : Window) (e : OrderEntry) (s : State) : Prop where
  follows : DrainsFollowWindows s
  taken : TakenFollowsDrains s
  traffic : DrainingHasTraffic s
  job : j ∈ s.eng.drains
  route : ∃ generation, r = .window ⟨j.handle.slot, generation⟩
  window : (s.slot j.handle.slot).window = some w
  count : (s.slot j.handle.slot).count = 1
  order : e ∈ s.orders j.source
  held : e.state = .taken j.handle.slot

/-- Something of a window is in flight elsewhere than toward one target: a WAITING entry of another target, or a POST in another
queue (R129). -/
def trafficElsewhere (s : State) (g : TargetId) (h : Handle) : Bool :=
  ((List.finRange Config.replyEntries).any fun i =>
    match (s.entry i).state with
    | .waiting w => w.route == .window h && w.target != g
    | _ => false) ||
  TargetId.all.any fun k => k != g && (s.egress k).any fun pkt => namedRoute pkt == some (.window h)

/-- The job's order entry is not silent, so that a reply is owed (R76, R122). -/
def replyOwed (s : State) (j : DrainJob) : Bool :=
  (s.orders j.source).any fun e => e.state == .taken j.handle.slot && !e.silent

/-- The ORDER_REPLYs that a source gets when the jobs a test picks complete at one event, in the order of the drain list
(R122, R128). -/
def doneReplies (s : State) (src : Source) (picks : DrainJob → Bool) : List ReturnPacket :=
  s.eng.drains.filterMap fun j =>
    if j.source = src ∧ picks j = true ∧ replyOwed s j = true then some (.orderReply j.sequence j.code .done []) else none

/-! ### Entries leaving WAITING -/

/-- What R61 and R68 say of an entry that leaves WAITING with a reply, with what an offer of freed resources may add to it. -/
structure LeftWaiting (i : Fin Config.replyEntries) (w : Waiting) (status : Status) (data : List Byte) (s t : State) :
    Prop where
  answered : w.orphan = false →
    t.entry i = ⟨(s.entry i).epoch, .answered ⟨w.host, w.tag, w.session, some (w.route, w.target), status, data⟩⟩
  reply : w.orphan = false → s.returns (.host w.host) ++ [.reply i w.tag status data] <+: t.returns (.host w.host)
  freed : w.orphan = true → (t.entry i).epoch = (s.entry i).epoch + 1 ∧ (NoHostWaits s → (t.entry i).state = .free)
  fetchGone : ∀ a n, .fetch i (s.entry i).epoch a n ∉ t.egress w.target
  others : ∀ j, j ≠ i → (s.entry j).state ≠ .free → t.entry j = s.entry j
  count : NoHostWaits s → NoDrains s → CountChanges w.route (· - 1) s t

/-- The part just after an entry has left WAITING, before drains complete and freed resources are offered (R56, R61, R68): the
entry, its egress queue, its count and its host's return queue differ, and the events may. -/
structure EntryLeft (i : Fin Config.replyEntries) (w : Waiting) (status : Status) (data : List Byte) (s u : State) : Prop where
  table : u.table = { s.table with
    entries := s.table.entries.set i.val
      (if w.orphan then ⟨(s.entry i).epoch + 1, .free⟩
       else ⟨(s.entry i).epoch, .answered ⟨w.host, w.tag, w.session, some (w.route, w.target), status, data⟩⟩) i.isLt }
  count : CountChanges w.route (· - 1) s u
  egress : u.ports.egress = s.ports.egress.set w.target ((s.egress w.target).filter fun pkt => !isFetchOf i pkt)
  returns : u.ports.returns =
    if w.orphan then s.ports.returns
    else s.ports.returns.set (.host w.host) (s.returns (.host w.host) ++ [.reply i w.tag status data])
  rest : u = { s with
    dir := u.dir, table := u.table, events := u.events
    ports := { s.ports with egress := u.ports.egress, returns := u.ports.returns } }

/-- An entry after every WAITING entry that a test picks has ended with one status (R61, R63, R64, R68). -/
def endedEntry (picks : Waiting → Bool) (status : Status) (e : Entry) : Entry :=
  match e.state with
  | .waiting w =>
    if picks w then
      if w.orphan then ⟨e.epoch + 1, .free⟩
      else ⟨e.epoch, .answered ⟨w.host, w.tag, w.session, some (w.route, w.target), status, []⟩⟩
    else e
  | _ => e

/-- An entry after a host's session end: its WAITING entries are orphans, its ANSWERED ones are FREE (R67). -/
def orphanedEntry (h : HostId) (e : Entry) : Entry :=
  match e.state with
  | .waiting w => if w.host = h then { e with state := .waiting { w with orphan := true } } else e
  | .answered a => if a.host = h then ⟨e.epoch + 1, .free⟩ else e
  | .free => e

/-- The REPLYs that a host is owed when the WAITING entries that a test picks end with one status: one for each that is not an
orphan, in increasing index order (R61, R63, R64). -/
def repliesFor (s : State) (h : HostId) (picks : Waiting → Bool) (status : Status) : List ReturnPacket :=
  (List.finRange Config.replyEntries).filterMap fun i =>
    match (s.entry i).state with
    | .waiting w => if picks w && !w.orphan && w.host == h then some (.reply i w.tag status []) else none
    | _ => none

/-- Every WAITING entry that a test picks has ended with one status, or is freed if it is an orphan, and every other entry in
use is as it was (R61, R63, R64, R68). -/
structure AllLeftWaiting (picks : Waiting → Bool) (status : Status) (s t : State) : Prop where
  answered : ∀ i w, (s.entry i).state = .waiting w → picks w = true → w.orphan = false →
    t.entry i = ⟨(s.entry i).epoch, .answered ⟨w.host, w.tag, w.session, some (w.route, w.target), status, []⟩⟩
  replies : ∀ h, s.returns (.host h) ++ repliesFor s h picks status <+: t.returns (.host h)
  freed : ∀ i w, (s.entry i).state = .waiting w → picks w = true → w.orphan = true →
    (t.entry i).epoch = (s.entry i).epoch + 1 ∧ (NoHostWaits s → (t.entry i).state = .free)
  others : ∀ i w, (s.entry i).state = .waiting w → picks w = false → t.entry i = s.entry i
  kept : ∀ i a, (s.entry i).state = .answered a → t.entry i = s.entry i

/-! ### Sessions -/

/-- The command ends the session of a port that is STARTING or UP and leaves it in a link state, with a held count: STOP, loss
of signal, RESTART, or a START while UP (R176, R177). -/
def EndsSession (s : State) (p : Port) (c : Instr) (l : LinkState) (held : Nat) : Prop :=
  s.link p ≠ .down ∧
    ((l = .down ∧ held = 0 ∧ (c = .lossOfSignal p ∨ ∃ sym, symbolCheckMatches symStop sym = true ∧ c = .stop p sym)) ∨
      (l = .awaitingStart ∧ held = 0 ∧ ∃ sym, symbolCheckMatches symRestart sym = true ∧ c = .restart p sym) ∨
      (l = .answering ∧ s.link p = .up ∧ ∃ sym, symbolCheckMatches symStart sym = true ∧
        held = symbolGrant sym (sendingClass p) ∧ c = .start p sym))

/-- What is left of a source's order queue after its session end: TAKEN entries, silent (R76). -/
def silenced (q : List OrderEntry) : List OrderEntry := (q.filter isTaken).map fun e => { e with silent := true }

/-! ### Arrivals -/

/-- The command is the arrival of a packet with a kind code on a port. -/
def ArrivesAs (p : Port) (k : Byte) (f : Frame) (c : Instr) : Prop :=
  c = .misdirectedPacket p k f ∨
    (∃ h, p = .host h ∧ (k = kindPost ∧ c = .post h f ∨ k = kindFetch ∧ c = .fetch h f)) ∨
    (∃ src : Source, p = src.port ∧ k = kindOrder ∧ c = .order src f) ∨
    ∃ t, p = .target t ∧ k = kindReply ∧ c = .reply t f

/-- The credit that a discarded packet is taken to have spent: the class its kind names on the port, while the unused grant is
above zero (R168). -/
def creditSpent (s : State) : Port → Byte → Option CreditClass
  | .host h, k =>
    if k = kindPost ∨ k = kindFetch then if s.ports.grantedRequest.get h = 0 then none else some .request
    else if k = kindOrder then if s.ports.grantedOrder.get (.host h) = 0 then none else some .order
    else none
  | .mgmt, k => if k = kindOrder then if s.ports.grantedOrder.get .mgmt = 0 then none else some .order else none
  | .target _, _ => none

/-- The REPLY's tag names the entry, under its epoch, on its target port (R57). -/
def TagMatches (s : State) (t : TargetId) (tag : BitVec 16) (i : Fin Config.replyEntries) (w : Waiting) : Prop :=
  (s.entry i).state = .waiting w ∧ (tag.extractLsb' 6 6).toNat = i.val ∧ tag.extractLsb' 0 6 = (s.entry i).epoch ∧ w.target = t

/-! ### Changes of windows -/

/-- A MODIFY, ATTACH or DETACH on a window passes its operand check, and its pool check, with a change and a mode (R87, R88,
R92, R93, R111, R113). -/
def ChangePasses (o : OrderName) (s : State) (i : Fin Config.slots) (w : Window) (b : List Byte) (c : PendingChange)
    (m : Mode) : Prop :=
  modeOf b = some m ∧
    ((o = .modify ∧ ∃ f, modifyOperands b = some f ∧ c = .modify f ∧ modifyIsBad f w = false ∧
        (f.movesRange = true →
          (∀ h, w.owner = .host h → insideAllotment (s.eng.allotment.get h) (modifiedSpan f w) = true) ∧
            overlapsOther s (some i) (modifiedSpan f w) = false)) ∨
      (o = .attach ∧ ∃ r, attachOperands b w = some r ∧ c = .attach r ∧ r.kind ∉ w.chain.map ExtRecord.kind ∧
        s.dir.poolFree ≠ 0) ∨
      (o = .detach ∧ ∃ k, kindOf b = some k ∧ c = .detach k ∧ k ∈ w.chain.map ExtRecord.kind))

/-- The free records after a change is applied at once (R101). -/
def poolAfter (c : PendingChange) (n : Nat) : Nat :=
  match c with
  | .modify _ => n
  | .attach _ => n - 1
  | .detach _ => n + 1

/-- The free records after a change has started a drain: an attach's record is reserved (R112). -/
def poolReserved (c : PendingChange) (n : Nat) : Nat :=
  match c with
  | .attach _ => n - 1
  | _ => n

/-- The source may act on the window that the order's handle names: checks one to six for a window order that a lock refuses
(R82 to R86). -/
structure MayChangeWindow (s : State) (src : Source) (e : OrderEntry) (i : Fin Config.slots) (w : Window) : Prop where
  rights : MayChange s src
  thawed : s.eng.frozen = false
  names : NamesWindow s e.block i w
  owns : Owns src w
  unlocked : w.locked = false
  settled : w.state = .staged ∨ w.state = .live

/-- A LIVE window with traffic in flight and a free drain place (R14, R88). -/
def DrainsNow (s : State) (i : Fin Config.slots) (w : Window) : Prop :=
  w.state = .live ∧ (s.slot i).count ≠ 0 ∧ s.eng.drains.length < Config.drainPlaces

/-! ### Power-on -/

/-- Every block holds the values of power-on and pin reset (R26, R51, R71, R77, R116, R133, R134, R136, R144, R160, R178, R180,
R189). -/
structure PowerOnValues (t : State) : Prop where
  slots : ∀ i, t.slot i = ⟨0, 0, none⟩
  pool : t.dir.poolFree = 96 ∧ t.dir.fallback = none ∧ t.dir.fallbackCount = 0
  hosts : ∀ h, t.ingress h = [] ∧ t.mark h = .clear ∧ t.eng.rights.get h = .none ∧ t.eng.allotment.get h = none ∧
    t.ports.session.get h = 0 ∧ t.ports.barredHost.get h = false ∧ t.ports.grantedRequest.get h = 0
  entries : ∀ i, t.entry i = ⟨0, .free⟩
  positions : t.table.position = .h3 ∧ t.eng.position = .host .h3 ∧ ∀ g, t.ports.egressPosition.get g = .h3
  sources : ∀ src, t.orders src = [] ∧ t.returns src = [] ∧ t.ports.grantedOrder.get src = 0
  engine : t.eng.drains = [] ∧ t.eng.frozen = false ∧ t.eng.replyLimit = 5000 ∧ t.eng.drainLimit = 200
  links : ∀ p, t.link p = .down ∧ t.ports.held.get p = 0
  targets : ∀ g, t.egress g = [] ∧ t.ports.barredTarget.get g = false
  flags : t.events.pending = Flag.resetSeen.mask ∧ t.events.enabled = Flag.resetSeen.mask ∧
    ∀ i : Fin 12, t.events.details[i] = 0
  notices : t.events.noteN = true ∧ t.events.noticeOwed = true ∧ t.events.setting = ⟨none, 0, 0⟩ ∧
    t.events.notificationOwed = false

end Sys2Proof.Machine
end

