-- ==== Sys2Proof/Certificates/Slice0/Obligations.lean ====
section
/-! DEFINITION. The statements about the part, for the provers. Each docstring names the rules the statement rests on; where a
clause is the model's choice it names the log entry. -/

open Sys2Proof Sys2Proof.Machine

/-! ### Steps -/

/-- A step takes the command at the front of the queue and runs it with the queue's rest; with no command the block idles
(the model's choice, log 1). -/
def Obligations.StepTakesFront : Prop :=
  (∀ (c : Instr) (rest : List Instr) (s : State), step { s with pending := c :: rest } = exec c { s with pending := rest }) ∧
    ∀ s : State, s.pending = [] → step s = .next s

/-- Every event is carried out in every state: nothing stops the part. It leaves the commands that wait alone, and no unit that
has left comes back (00_scope.md section 6; the two fields are the model's, log 1 and log 10). -/
def Obligations.EveryCommandCompletes : Prop :=
  ∀ (c : Instr) (s : State), ∃ t, exec c s = .next t ∧ t.pending = s.pending ∧ s.sent <+: t.sent

/-! ### Power-on, pin reset and start-up -/

/-- State.reset is the part after power-on (R195), start-up begun (log 6), and the invariants hold of it. -/
def Obligations.ResetValuesAndInvariants : Prop :=
  PowerOnValues State.reset ∧ State.reset.ctl.cause = ⟨true, false, false⟩ ∧ State.reset.ctl.phase = .startUp ∧
    State.reset.pending = [] ∧ State.reset.sent = [] ∧
    PoolBalanced State.reset ∧ WindowsFit State.reset ∧ RangesDisjoint State.reset ∧ LockedLive State.reset ∧
    CountsMatch State.reset ∧ DrainsFollowWindows State.reset ∧ TakenFollowsDrains State.reset ∧
    DrainingHasTraffic State.reset ∧ TagsDistinct State.reset ∧ EgressFollowsEntries State.reset ∧
    QueuesFit State.reset ∧ DownPortsEmpty State.reset ∧ CreditsMatch State.reset ∧ ReturnsMatch State.reset ∧
    NoteFollowsFlags State.reset

/-- Power-on (R195), loss of supply, which leaves the rest of the state as it was (log 9), pin reset, release and the end of
start-up (R191, R194). RESET_N is carried by the phase (log 7), and a low level while the part is held is part of the same
reset (log 8). -/
def Obligations.PowerAndResetEvents : Prop :=
  ∀ s : State,
    (∀ high, ∃ t, exec (.powerOn high) s = .next t ∧ PowerOnValues t ∧ t.ctl.cause = ⟨true, false, false⟩ ∧
      t.ctl.phase = (if high then .startUp else .held) ∧ t.sent = s.sent) ∧
    (exec .lossOfSupply s = .next
      { s with ctl := { s.ctl with phase := .unpowered }, events := { s.events with noteN := false } }) ∧
    (s.ctl.phase = .startUp ∨ s.ctl.phase = .running →
      ∃ t, exec .pinReset s = .next t ∧ PowerOnValues t ∧ t.ctl.cause = { s.ctl.cause with pin := true } ∧
        t.ctl.phase = .held ∧ t.sent = s.sent) ∧
    (s.ctl.phase = .held ∨ s.ctl.phase = .unpowered → exec .pinReset s = .next s) ∧
    (s.ctl.phase = .held → exec .resetNRelease s = .next { s with ctl := { s.ctl with phase := .startUp } }) ∧
    (s.ctl.phase ≠ .held → exec .resetNRelease s = .next s) ∧
    (s.ctl.phase = .startUp → exec .startUpEnd s = .next { s with ctl := { s.ctl with phase := .running } }) ∧
    (s.ctl.phase ≠ .startUp → exec .startUpEnd s = .next s)

/-! ### Invariants that every step keeps -/

/-- Free records and records in use stay 96 together (R101, R102). -/
def Obligations.PoolBalancedKept : Prop :=
  ∀ s t : State, PoolBalanced s → step s = .next t → PoolBalanced t

/-- Bounds, chains, translated ranges and mirror ports stay as OPEN, MODIFY and ATTACH admit them, also through the completion of
a drain, which does not check them again (R5, R9, R102, R104, R106, R108, R123). -/
def Obligations.WindowsFitKept : Prop :=
  ∀ s t : State, WindowsFit s → step s = .next t → WindowsFit t

/-- Reserved ranges stay pairwise disjoint (R17, R18). -/
def Obligations.RangesDisjointKept : Prop :=
  ∀ s t : State, RangesDisjoint s → step s = .next t → RangesDisjoint t

/-- In-flight counts stay what R21 says (R4, R21). -/
def Obligations.CountsMatchKept : Prop :=
  ∀ s t : State, CountsMatch s → step s = .next t → CountsMatch t

/-- Drain jobs and DRAINING windows stay in step, and never more than 8 (R117, R118). -/
def Obligations.DrainsFollowWindowsKept : Prop :=
  ∀ s t : State, DrainsFollowWindows s → step s = .next t → DrainsFollowWindows t

/-- Drain jobs and TAKEN order entries stay in step (R75, R76, R118). -/
def Obligations.TakenFollowsDrainsKept : Prop :=
  ∀ s t : State, DrainsFollowWindows s → TakenFollowsDrains s → step s = .next t → TakenFollowsDrains t

/-- No window stays DRAINING with a count of zero: its drain completes at the event that takes the count to zero (R23, R122). -/
def Obligations.DrainingHasTrafficKept : Prop :=
  ∀ s t : State, DrainsFollowWindows s → DrainingHasTraffic s → step s = .next t → DrainingHasTraffic t

/-- No two entries of one host's current session come to carry one source tag (R54). -/
def Obligations.TagsDistinctKept : Prop :=
  ∀ s t : State, TagsDistinct s → step s = .next t → TagsDistinct t

/-- A forwarded FETCH stands in an egress queue only while its reply entry is WAITING (R56). -/
def Obligations.EgressFollowsEntriesKept : Prop :=
  ∀ s t : State, EgressFollowsEntries s → step s = .next t → EgressFollowsEntries t

/-- Ingress, order and egress queues keep to their places (R29, R73, R151). -/
def Obligations.QueuesFitKept : Prop :=
  ∀ s t : State, WindowsFit s → QueuesFit s → step s = .next t → QueuesFit t

/-- A port that is not UP keeps nothing of a session in the part (R148, R156 to R158), and ports that are not enabled stay DOWN
(R178). -/
def Obligations.DownPortsEmptyKept : Prop :=
  ∀ s t : State, DownPortsEmpty s → step s = .next t → DownPortsEmpty t

/-- Unused grants equal the free places of the queues they feed (R167). -/
def Obligations.CreditsMatchKept : Prop :=
  ∀ s t : State, DownPortsEmpty s → CreditsMatch s → step s = .next t → CreditsMatch t

/-- Return queues hold only what ANSWERED entries and orders and the Event Unit have placed (R65, R75, R152). -/
def Obligations.ReturnsMatchKept : Prop :=
  ∀ s t : State, DownPortsEmpty s → ReturnsMatch s → step s = .next t → ReturnsMatch t

/-- A host's return queue never holds more than 53 packets, and M's never more than 9 (R153): at most 48 REPLYs, 4 ORDER_REPLYs
and one notification POST for a host, at most 8 ORDER_REPLYs and one NOTICE for M. So it is in every state that keeps the
invariants on return queues and order queues, which every step keeps. -/
def Obligations.ReturnQueuesBounded : Prop :=
  ∀ s : State, ReturnsMatch s → QueuesFit s →
    (∀ h, (s.returns (.host h)).length ≤ 53 ∧ ((s.returns (.host h)).filterMap replyEntry).length ≤ 48 ∧
      (s.returns (.host h)).countP isOrderReply ≤ 4 ∧ (s.returns (.host h)).countP isNotification ≤ 1) ∧
    (s.returns .mgmt).length ≤ 9 ∧ (s.returns .mgmt).countP isOrderReply ≤ 8 ∧ (s.returns .mgmt).countP isNotice ≤ 1

/-- NOTE_N stays asserted exactly while some flag is both pending and enabled (R181). -/
def Obligations.NoteFollowsFlagsKept : Prop :=
  ∀ s t : State, NoteFollowsFlags s → step s = .next t → NoteFollowsFlags t

/-! ### What only a reset undoes -/

/-- The freeze flag and every locked window, with its whole record, stay until pin reset or power-on, whatever command is taken
(R143). -/
def Obligations.LocksAndFreezeLast : Prop :=
  ∀ (c : Instr) (s t : State), LockedLive s → exec c s = .next t →
    LockedLive t ∧
      ((c = .pinReset ∨ ∃ high, c = .powerOn high) ∨
        (s.eng.frozen = true → t.eng.frozen = true) ∧
          ∀ i w, (s.slot i).window = some w → w.locked = true →
            (t.slot i).window = some w ∧ (t.slot i).generation = (s.slot i).generation)

/-- On a frozen part whose drain list is empty, window records, generations, the pool, the fallback setting, rights and
allotments stay until pin reset or power-on (R145, R146). -/
def Obligations.FrozenDirectoryStays : Prop :=
  ∀ (c : Instr) (s t : State), s.eng.frozen = true → NoDrains s → exec c s = .next t →
    (c = .pinReset ∨ ∃ high, c = .powerOn high) ∨
      (t.eng.frozen = true ∧ NoDrains t ∧ WindowsKept s t ∧ t.dir.poolFree = s.dir.poolFree ∧
        t.dir.fallback = s.dir.fallback ∧ t.eng.rights = s.eng.rights ∧ t.eng.allotment = s.eng.allotment)

/-- No occasion is lost: whenever an event makes a flag both pending and enabled that was not, M either has at the tail of its
return queue a NOTICE of all flags now pending and enabled, or is owed one (R179, R182; that an event is an occasion when a flag
is both after it and was not before it is log 21). -/
def Obligations.OccasionsReachManagement : Prop :=
  ∀ (c : Instr) (s t : State), exec c s = .next t →
    (∃ i : Fin 12, t.events.pending.getLsbD i.val = true ∧ t.events.enabled.getLsbD i.val = true ∧
      ¬(s.events.pending.getLsbD i.val = true ∧ s.events.enabled.getLsbD i.val = true)) →
    t.events.noticeOwed = true ∨ ∃ earlier, t.returns .mgmt = earlier ++ [.notice (t.events.pending &&& t.events.enabled)]

/-! ### Links -/

/-- What arrives at a port that is not enabled is ignored without a flag (R178, R194), and so are STOP, RESTART, a valid CREDIT
and loss of signal while the port is DOWN (R176, R177; log 11 for what a valid CREDIT is there). -/
def Obligations.IgnoredWithoutFlag : Prop :=
  ∀ s : State,
    (s.ctl.phase ≠ .running →
      (∀ p sym, exec (.start p sym) s = .next s ∧ exec (.stop p sym) s = .next s ∧ exec (.restart p sym) s = .next s ∧
        exec (.credit p sym) s = .next s) ∧
      (∀ p, exec (.lossOfSignal p) s = .next s) ∧ (∀ p bytes, exec (.malformedSymbol p bytes) s = .next s) ∧
      ∀ p k f c, ArrivesAs p k f c → exec c s = .next s) ∧
    ∀ p, s.ctl.phase = .running → s.link p = .down →
      exec (.lossOfSignal p) s = .next s ∧
      (∀ sym, symbolCheckMatches symStop sym = true → exec (.stop p sym) s = .next s) ∧
      (∀ sym, symbolCheckMatches symRestart sym = true → exec (.restart p sym) s = .next s) ∧
      ∀ sym x, symbolCheckMatches symCredit sym = true → symbolCredit sym = some x → exec (.credit p sym) s = .next s

/-- A START at a port that is DOWN or awaiting START makes it answering and sets the held count to the grant of the class the part
sends there; one at an answering port is ignored without a flag (R173 to R175). Its last four bits are not examined (log 12). -/
def Obligations.StartIsTaken : Prop :=
  (∀ (s : State) (p : Port) (sym : Symbol), s.ctl.phase = .running → symbolCheckMatches symStart sym = true →
    (s.link p = .down ∨ s.link p = .awaitingStart →
      exec (.start p sym) s = .next
        { s with ports :=
          { s.ports with
            link := s.ports.link.set p .answering
            held := s.ports.held.set p (symbolGrant sym (sendingClass p)) } }) ∧
    (s.link p = .answering → exec (.start p sym) s = .next s)) ∧
  ∀ (q o b : Nat) (check : BitVec 16), q ≤ 4095 → o ≤ 4095 → b ≤ 4095 →
    symbolGrant ⟨startArgs q o b, check⟩ .request = q ∧ symbolGrant ⟨startArgs q o b, check⟩ .order = o ∧
      symbolGrant ⟨startArgs q o b, check⟩ .back = b

/-- The part's own START leaves an answering port with the grants of R150: the port is UP, LINK_UP is set with it, and an owed
NOTICE or notification is acted on at that event (R147, R150, R175, R182, R184). -/
def Obligations.PartStartMakesUp : Prop :=
  ∀ (s : State) (p : Port), s.ctl.phase = .running → s.link p = .answering →
    ∃ t, exec (.partStartSent p) s = .next t ∧ FlagRaised .linkUp (portMask p) s t ∧ NoticesOnly s t ∧
      t.ports.link = s.ports.link.set p .up ∧
      (∀ h, p = .host h → t.sent = s.sent ++ [(p, .start 8 4 0)] ∧
        t.ports.grantedRequest = s.ports.grantedRequest.set h 8 ∧
        t.ports.grantedOrder = s.ports.grantedOrder.set (.host h) 4) ∧
      (∀ g, p = .target g → t.sent = s.sent ++ [(p, .start 0 0 0)] ∧
        t.ports.grantedRequest = s.ports.grantedRequest ∧ t.ports.grantedOrder = s.ports.grantedOrder) ∧
      (p = .mgmt → t.sent = s.sent ++ [(p, .start 0 8 0)] ∧
        t.ports.grantedRequest = s.ports.grantedRequest ∧ t.ports.grantedOrder = s.ports.grantedOrder.set .mgmt 8) ∧
      (p = .mgmt → s.events.noticeOwed = true →
        t.events.noticeOwed = false ∧
          t.returns .mgmt = s.returns .mgmt ++
            (if t.events.pending &&& t.events.enabled = 0 then [] else [.notice (t.events.pending &&& t.events.enabled)])) ∧
      (∀ h, p = .host h → s.events.setting.host = some h → s.events.notificationOwed = true →
        t.events.notificationOwed = false ∧
          t.returns (.host h) = s.returns (.host h) ++
            (if s.ports.barredHost.get h = true ∨ t.events.pending &&& t.events.enabled = 0 then []
             else [.notification s.events.setting.address
               (s.events.setting.dataBase + BitVec.ofNat 32 (topPriority (t.events.pending &&& t.events.enabled)))])) ∧
      t = { s with
        ports := { s.ports with
          link := t.ports.link, grantedRequest := t.ports.grantedRequest, grantedOrder := t.ports.grantedOrder
          returns := t.ports.returns }
        events := t.events
        sent := t.sent }

/-- A CREDIT raises the held count of the class the part sends on the port by n, up to 4095; one that would carry it further, or
of another class, is ignored with PROTOCOL (R173, R174). Its bytes 3 to 5 are not examined (log 27). -/
def Obligations.CreditIsTaken : Prop :=
  (∀ (s : State) (p : Port) (sym : Symbol) (cls : CreditClass) (n : Nat), s.ctl.phase = .running → s.link p ≠ .down →
    symbolCheckMatches symCredit sym = true → symbolCredit sym = some (cls, n) →
    (cls = sendingClass p → s.ports.held.get p + n ≤ 4095 →
      exec (.credit p sym) s = .next
        { s with ports := { s.ports with held := s.ports.held.set p (s.ports.held.get p + n) } }) ∧
    (cls ≠ sendingClass p ∨ 4095 < s.ports.held.get p + n →
      ∃ t, exec (.credit p sym) s = .next t ∧ FlagOnly .protocol p s t)) ∧
  ∀ (cls : CreditClass) (n : Nat) (check : BitVec 16), 1 ≤ n → n ≤ 63 → symbolCredit ⟨creditArgs cls n, check⟩ = some (cls, n)

/-- A symbol of the wrong size, of unknown code, damaged, or a CREDIT with a bad class or count is ignored with PROTOCOL, in
every link state (R162, R173; log 11 for a port that is DOWN). -/
def Obligations.BadSymbolsIgnored : Prop :=
  ∀ (s : State) (p : Port), s.ctl.phase = .running →
    (∀ bytes, isMalformedSymbol bytes = true → ∃ t, exec (.malformedSymbol p bytes) s = .next t ∧ FlagOnly .protocol p s t) ∧
    (∀ sym, symbolCheckMatches symStart sym = false → ∃ t, exec (.start p sym) s = .next t ∧ FlagOnly .protocol p s t) ∧
    (∀ sym, symbolCheckMatches symStop sym = false → ∃ t, exec (.stop p sym) s = .next t ∧ FlagOnly .protocol p s t) ∧
    (∀ sym, symbolCheckMatches symRestart sym = false → ∃ t, exec (.restart p sym) s = .next t ∧ FlagOnly .protocol p s t) ∧
    ∀ sym, symbolCheckMatches symCredit sym = false ∨ symbolCredit sym = none →
      ∃ t, exec (.credit p sym) s = .next t ∧ FlagOnly .protocol p s t

/-- A host port's session end by STOP, RESTART, loss of signal or START while UP, the entries it frees being handed to the hosts
that wait (R46, R50, R67, R76, R149, R150, R156, R176, R177, R184). That a lost notification is owed also where the host is
barred is log 17. -/
def Obligations.HostSessionEnds : Prop :=
  ∀ (s : State) (h : HostId) (c : Instr) (l : LinkState) (n : Nat), s.ctl.phase = .running →
    EndsSession s (.host h) c l n → DrainsFollowWindows s → DrainingHasTraffic s →
    ∃ t, exec c s = .next t ∧
      t.ports.link = s.ports.link.set (.host h) l ∧ t.ports.held = s.ports.held.set (.host h) n ∧
      t.ports.grantedRequest.get h = 0 ∧ t.ports.grantedOrder = s.ports.grantedOrder.set (.host h) 0 ∧
      t.ports.session = s.ports.session.set h (s.ports.session.get h + 1) ∧
      t.returns (.host h) = [] ∧ t.ingress h = [] ∧ t.mark h = .clear ∧
      t.eng = { s.eng with orders := s.eng.orders.set (.host h) (silenced (s.orders (.host h))) } ∧
      (∀ i w, (s.entry i).state = .waiting w →
        t.entry i = ⟨(s.entry i).epoch, .waiting { w with orphan := if w.host = h then true else w.orphan }⟩) ∧
      (∀ i a, (s.entry i).state = .answered a → a.host ≠ h → t.entry i = s.entry i) ∧
      (∀ i a, (s.entry i).state = .answered a → a.host = h →
        (t.entry i).epoch = (s.entry i).epoch + 1 ∧ (NoHostWaits s → (t.entry i).state = .free)) ∧
      FlagShows .hostDown (.host h) t ∧ WindowsKept s t ∧ t.ctl = s.ctl ∧
      t.ports.barredHost = s.ports.barredHost ∧ t.ports.barredTarget = s.ports.barredTarget ∧
      ((s.returns (.host h)).any isNotification = true → s.events.setting.host = some h → t.events.notificationOwed = true) ∧
      (∃ u, HandOut s u t ∧ (NoHostWaits s → NoticesFollow u t) ∧ (∀ i, u.entry i = orphanedEntry h (s.entry i)) ∧
        FlagRaised .hostDown (portMask (.host h)) s u ∧ u.events.noticeOwed = s.events.noticeOwed ∧
        u.events.notificationOwed =
          (s.events.notificationOwed || ((s.returns (.host h)).any isNotification && s.events.setting.host == some h)) ∧
        u = { s with
          fwd := { s.fwd with ingress := s.fwd.ingress.set h [], waiting := s.fwd.waiting.set h .clear }
          table := { s.table with entries := u.table.entries }
          eng := t.eng
          ports := { s.ports with
            link := t.ports.link, held := t.ports.held, grantedRequest := s.ports.grantedRequest.set h 0
            grantedOrder := t.ports.grantedOrder, session := t.ports.session, returns := s.ports.returns.set (.host h) [] }
          events := u.events }) ∧
      (NoHostWaits s →
        FlagRaised .hostDown (portMask (.host h)) s t ∧ t.dir = s.dir ∧ t.sent = s.sent ∧ t.ports.egress = s.ports.egress ∧
          t.ports.grantedRequest = s.ports.grantedRequest.set h 0 ∧
          (∀ other, other ≠ h → t.ingress other = s.ingress other) ∧ NoticesOnly (s.setReturns (.host h) []) t)

/-- A target port's session end: a drain completes with it where the window's traffic lay wholly with the lost target, and goes on
where some lies elsewhere; the replies of the orders stand behind the REPLYs, in the order of the drain list (R63, R122 to R124,
R128, R129, R150, R157, R176, R177). The entries and places it frees are handed to the hosts that wait (R46, R47), after the
completions (log 15), and every place freed (log 26). -/
def Obligations.TargetSessionEnds : Prop :=
  ∀ (s : State) (g : TargetId) (c : Instr) (l : LinkState) (n : Nat), s.ctl.phase = .running →
    EndsSession s (.target g) c l n →
    ∃ t, exec c s = .next t ∧
      t.ports.link = s.ports.link.set (.target g) l ∧ t.ports.held = s.ports.held.set (.target g) n ∧ t.egress g = [] ∧
      AllLeftWaiting (fun w => w.target == g) .portDown s t ∧ s.returns .mgmt <+: t.returns .mgmt ∧
      FlagShows .targetDown (.target g) t ∧
      ((s.egress g).any isPost = true → FlagShows .postsLost (.target g) t) ∧
      t.ctl = s.ctl ∧ t.ports.session = s.ports.session ∧ t.ports.barredHost = s.ports.barredHost ∧
      t.ports.barredTarget = s.ports.barredTarget ∧ t.eng.rights = s.eng.rights ∧ t.eng.allotment = s.eng.allotment ∧
      t.eng.frozen = s.eng.frozen ∧ t.dir.fallback = s.dir.fallback ∧ s.sent <+: t.sent ∧
      (NoDrains s → WindowsKept s t ∧ t.eng = s.eng) ∧
      (DrainsFollowWindows s → TakenFollowsDrains s → CountsMatch s →
        t.eng.drains = s.eng.drains.filter (fun j => trafficElsewhere s g j.handle) ∧
        (∀ j w, j ∈ s.eng.drains → trafficElsewhere s g j.handle = false → (s.slot j.handle.slot).window = some w →
          (∀ c, w.state = .drainChange c →
            (t.slot j.handle.slot).window = some { changed c w with state := .live } ∧
              (t.slot j.handle.slot).generation = (s.slot j.handle.slot).generation) ∧
          (w.state = .drainRetire →
            (t.slot j.handle.slot).window = none ∧
              (t.slot j.handle.slot).generation = (s.slot j.handle.slot).generation + 1) ∧
          (replyOwed s j = true → ∃ e ∈ t.orders j.source, e.state = .answered ∧ e.sequence = j.sequence ∧ e.code = j.code) ∧
          ∀ e ∈ t.orders j.source, e.state ≠ .taken j.handle.slot) ∧
        (∀ i, (∀ j ∈ s.eng.drains, j.handle.slot = i → trafficElsewhere s g j.handle = true) →
          (t.slot i).window = (s.slot i).window ∧ (t.slot i).generation = (s.slot i).generation) ∧
        (∀ h, s.returns (.host h) ++ repliesFor s h (fun w => w.target == g) .portDown ++
          doneReplies s (.host h) (fun j => !trafficElsewhere s g j.handle) <+: t.returns (.host h)) ∧
        s.returns .mgmt ++ doneReplies s .mgmt (fun j => !trafficElsewhere s g j.handle) <+: t.returns .mgmt) ∧
      (∃ u, u.fwd = s.fwd ∧ u.table.position = s.table.position ∧
        (∀ i, u.entry i = endedEntry (fun w => w.target == g) .portDown (s.entry i)) ∧
        u.ports.egress = s.ports.egress.set g [] ∧ u.ports.egressPosition = s.ports.egressPosition ∧ HandOut s u t) ∧
      (NoHostWaits s → t.sent = s.sent ∧ t.fwd = s.fwd ∧ t.ports.grantedRequest = s.ports.grantedRequest)

/-- The management port's session end: no flag is set, and a NOTICE that was lost is owed (R76, R150, R158, R176, R177,
R182). -/
def Obligations.ManagementSessionEnds : Prop :=
  ∀ (s : State) (c : Instr) (l : LinkState) (n : Nat), s.ctl.phase = .running → EndsSession s .mgmt c l n →
    exec c s = .next
      { s with
        eng := { s.eng with orders := s.eng.orders.set .mgmt (silenced (s.orders .mgmt)) }
        ports :=
          { s.ports with
            link := s.ports.link.set .mgmt l
            held := s.ports.held.set .mgmt n
            grantedOrder := s.ports.grantedOrder.set .mgmt 0
            returns := s.ports.returns.set .mgmt [] }
        events := { s.events with noticeOwed := s.events.noticeOwed || (s.returns .mgmt).any isNotice } }

/-! ### Arriving packets -/

/-- A POST or FETCH that arrives whole and well-formed on a host link that is UP enters the tail of the host's ingress queue and
spends a REQUEST credit (R29, R164, R169). -/
def Obligations.RequestEntersIngress : Prop :=
  ∀ (s : State) (h : HostId) (f : Frame), s.ctl.phase = .running → s.link (.host h) = .up → (s.ingress h).length < 8 →
    1 ≤ f.length.toNat → f.length.toNat ≤ 256 →
    (checkMatches kindPost f = true → f.payload.length = f.length.toNat →
      exec (.post h f) s = .next
        { s with
          fwd := { s.fwd with ingress := s.fwd.ingress.set h (s.ingress h ++ [.post f.address f.payload]) }
          ports := { s.ports with grantedRequest := s.ports.grantedRequest.set h (s.ports.grantedRequest.get h - 1) } }) ∧
    (checkMatches kindFetch f = true → f.payload = [] →
      exec (.fetch h f) s = .next
        { s with
          fwd := { s.fwd with
            ingress := s.fwd.ingress.set h
              (s.ingress h ++ [.fetch (f.tag.extractLsb' 0 8) f.address f.length.toNat]) }
          ports := { s.ports with grantedRequest := s.ports.grantedRequest.set h (s.ports.grantedRequest.get h - 1) } })

/-- An ORDER that arrives whole and well-formed on the link of a source that is UP enters its order queue as QUEUED and spends an
ORDER credit; one that repeats a sequence number is discarded with PROTOCOL and its credit goes back (R73, R74, R169). -/
def Obligations.OrderEntersQueue : Prop :=
  ∀ (s : State) (src : Source) (f : Frame), s.ctl.phase = .running → s.link src.port = .up →
    placesUsed (s.orders src) < Config.orderPlaces src → checkMatches kindOrder f = true → f.length = 0 →
    f.payload.length = 64 →
    ((∀ e ∈ s.orders src, e.silent = false → e.sequence ≠ f.tag.extractLsb' 0 8) →
      exec (.order src f) s = .next
        { s with
          eng := { s.eng with
            orders := s.eng.orders.set src
              (s.orders src ++ [⟨f.tag.extractLsb' 0 8, f.orderCode, f.payload, .queued, false⟩]) }
          ports := { s.ports with grantedOrder := s.ports.grantedOrder.set src (s.ports.grantedOrder.get src - 1) } }) ∧
    ((∃ e ∈ s.orders src, e.silent = false ∧ e.sequence = f.tag.extractLsb' 0 8) →
      ∃ t, exec (.order src f) s = .next t ∧ FlagRaised .protocol (portMask src.port) s t ∧ NoticesOnly s t ∧
        t = { s with
          ports := { s.ports with
            grantedOrder := s.ports.grantedOrder.set src (s.ports.grantedOrder.get src - 1 + 1)
            returns := t.ports.returns }
          events := t.events
          sent := s.sent ++ [(src.port, .credit .order 1)] })

/-- A packet is discarded with PROTOCOL: at a port that is DOWN or STARTING; where it is damaged, misdirected or of the wrong
form, the credit it is taken to have spent going back; and where its queue is full (R29, R73, R148, R163, R167 to R169). That a
frame cut below 18 bytes counts as damaged and its credit goes back is the model's reading (log 13). -/
def Obligations.PacketIsDiscarded : Prop :=
  ∀ (s : State) (p : Port) (k : Byte) (f : Frame) (c : Instr), s.ctl.phase = .running → ArrivesAs p k f c →
    (s.link p ≠ .up → ∃ t, exec c s = .next t ∧ FlagOnly .protocol p s t) ∧
    (s.link p = .up → (checkMatches k f && takesKind p k && formMatches k f) = false →
      ∃ t, exec c s = .next t ∧ FlagRaised .protocol (portMask p) s t ∧ NoticesOnly s t ∧
        t.sent = s.sent ++ (match creditSpent s p k with | some cls => [(p, .credit cls 1)] | none => []) ∧
        t = { s with ports := { s.ports with returns := t.ports.returns }, events := t.events, sent := t.sent }) ∧
    (s.link p = .up → (checkMatches k f && takesKind p k && formMatches k f) = true →
      (∃ h, p = .host h ∧ k ≠ kindOrder ∧ 8 ≤ (s.ingress h).length) ∨
        (∃ src : Source, p = src.port ∧ k = kindOrder ∧ Config.orderPlaces src ≤ placesUsed (s.orders src)) →
      ∃ t, exec c s = .next t ∧ FlagOnly .protocol p s t)

/-- A REPLY that matches a WAITING entry ends its wait: with DONE and the data if the status is DONE and the data has the entry's
length, and with TARGET_ERROR otherwise, PROTOCOL being set unless it is TARGET_ERROR without data (R57, R58, R61, R68). The
drain that the entry was the last item of completes at that event, the order's reply behind the REPLY (R122 to R124, R128), or
else, its FETCH having left its egress queue, the entry that an orphan frees is handed to the hosts that wait (R46). -/
def Obligations.ReplyIsMatched : Prop :=
  ∀ (s : State) (g : TargetId) (f : Frame) (i : Fin Config.replyEntries) (w : Waiting), s.ctl.phase = .running →
    s.link (.target g) = .up → checkMatches kindReply f = true → f.length.toNat ≤ 256 →
    f.payload.length = f.length.toNat → TagMatches s g f.tag i w →
    ∃ t, exec (.reply g f) s = .next t ∧
      (f.status = 0 ∧ f.payload.length = w.length → LeftWaiting i w .done f.payload s t) ∧
      (¬(f.status = 0 ∧ f.payload.length = w.length) → LeftWaiting i w .targetError [] s t) ∧
      (f.status = 0 ∧ f.payload.length = w.length ∨ f.status = 1 ∧ f.payload = [] →
        NoHostWaits s → t.events = s.events) ∧
      (¬(f.status = 0 ∧ f.payload.length = w.length ∨ f.status = 1 ∧ f.payload = []) → FlagShows .protocol (.target g) t) ∧
      (∃ u, (if f.status = 0 ∧ f.payload.length = w.length then EntryLeft i w .done f.payload s u
          else EntryLeft i w .targetError [] s u) ∧
        (if f.status = 0 ∧ f.payload.length = w.length ∨ f.status = 1 ∧ f.payload = [] then u.events = s.events
          else FlagRaised .protocol (portMask (.target g)) s u) ∧
        ((∀ pkt ∈ s.egress g, isFetchOf i pkt = false) → NoDrainEnds u → HandOut s u t) ∧
        ∀ j win e, LastOf w.route j win e s → DrainCompletes j win e (u.returns j.source) s t) ∧
      (NoDrains s → t.eng = s.eng) ∧ t.ports.link = s.ports.link ∧ t.ports.held = s.ports.held ∧ t.ctl = s.ctl

/-- A stray REPLY is discarded with STRAY_REPLY and changes nothing else (R59). -/
def Obligations.StrayReplyDiscarded : Prop :=
  ∀ (s : State) (g : TargetId) (f : Frame), s.ctl.phase = .running → s.link (.target g) = .up →
    checkMatches kindReply f = true → f.length.toNat ≤ 256 → f.payload.length = f.length.toNat →
    (∀ i w, ¬TagMatches s g f.tag i w) →
    ∃ t, exec (.reply g f) s = .next t ∧ FlagOnly .strayReply (.target g) s t

/-! ### Forward attempts -/

/-- A head that leaves without an answer: a FETCH whose tag is in use, with PROTOCOL, and a POST refused at any check, with
POST_REFUSED (R30, R32, R45). -/
def Obligations.HeadLeavesUnanswered : Prop :=
  ∀ (s : State) (h : HostId) (r : Request), FreshHead s h r →
    (∀ tag a n, r = .fetch tag a n → DuplicateTag s h tag →
      ∃ t, exec (.forwardAttempt h) s = .next t ∧ HeadTaken h s t ∧ FlagRaised .protocol (portMask (.host h)) s t ∧
        NoticesOnly s t ∧ HeadFrame s t) ∧
    (∀ a d st, r = .post a d → lookup s h r = .refused st →
      ∃ t, exec (.forwardAttempt h) s = .next t ∧ HeadTaken h s t ∧ FlagRaised .postRefused (portMask (.host h)) s t ∧
        NoticesOnly s t ∧ HeadFrame s t)

/-- A FETCH refused at a lookup check is answered at the attempt through the lowest-numbered FREE entry (R44, R53). -/
def Obligations.RefusedFetchAnswered : Prop :=
  ∀ (s : State) (h : HostId) (tag : BitVec 8) (a : Addr) (n : Nat) (st : Status) (i : Fin Config.replyEntries),
    FreshHead s h (.fetch tag a n) → ¬DuplicateTag s h tag → lookup s h (.fetch tag a n) = .refused st → LowestFree s i →
    ∃ t, exec (.forwardAttempt h) s = .next t ∧ HeadTaken h s t ∧
      t.table = { s.table with
        entries := s.table.entries.set i.val
          ⟨(s.entry i).epoch, .answered ⟨h, tag, s.ports.session.get h, none, st, []⟩⟩ i.isLt } ∧
      t.ports = { s.ports with
        grantedRequest := t.ports.grantedRequest
        returns := s.ports.returns.set (.host h) (s.returns (.host h) ++ [.reply i tag st []]) } ∧
      t = { s with fwd := t.fwd, table := t.table, ports := t.ports, sent := t.sent }

/-- A FETCH to be forwarded, with a reply entry and a place free, is forwarded at the attempt (R21, R41, R43, R53, R62). -/
def Obligations.FetchIsForwarded : Prop :=
  ∀ (s : State) (h : HostId) (tag : BitVec 8) (a : Addr) (n : Nat) (hop : Hop) (i : Fin Config.replyEntries),
    FreshHead s h (.fetch tag a n) → ¬DuplicateTag s h tag → lookup s h (.fetch tag a n) = .forward hop → LowestFree s i →
    (s.egress hop.target).length < 16 →
    ∃ t, exec (.forwardAttempt h) s = .next t ∧ HeadTaken h s t ∧
      t.table = { s.table with
        entries := s.table.entries.set i.val
          ⟨(s.entry i).epoch,
           .waiting ⟨h, tag, s.ports.session.get h, false, n, hop.route, hop.target, s.eng.replyLimit⟩⟩ i.isLt } ∧
      t.ports = { s.ports with
        grantedRequest := t.ports.grantedRequest
        egress := s.ports.egress.set hop.target (s.egress hop.target ++ [.fetch i (s.entry i).epoch hop.address n]) } ∧
      CountChanges hop.route (· + 1) s t ∧
      t = { s with dir := t.dir, fwd := t.fwd, table := t.table, ports := t.ports, sent := t.sent }

/-- A POST to be forwarded, with the places it needs free, is forwarded at the attempt: to the primary alone, to the primary with
a copy to a MIRROR port that is UP and not barred, or to the primary with MIRROR_SKIPPED (R21, R42, R43, R109). -/
def Obligations.PostIsForwarded : Prop :=
  ∀ (s : State) (h : HostId) (a : Addr) (d : List Byte) (hop : Hop),
    FreshHead s h (.post a d) → lookup s h (.post a d) = .forward hop → (s.egress hop.target).length < 16 →
    let pkt : EgressPacket := .post hop.route h hop.address d
    let placed := s.ports.egress.set hop.target (s.egress hop.target ++ [pkt])
    (hop.mirror = none →
      ∃ t, exec (.forwardAttempt h) s = .next t ∧ HeadTaken h s t ∧ CountChanges hop.route (· + 1) s t ∧
        t = { s with
          dir := t.dir, fwd := t.fwd, sent := t.sent
          ports := { s.ports with grantedRequest := t.ports.grantedRequest, egress := placed } }) ∧
    (∀ m, hop.mirror = some m → m ≠ hop.target → s.link (.target m) = .up → s.ports.barredTarget.get m = false →
      (s.egress m).length < 16 →
      ∃ t, exec (.forwardAttempt h) s = .next t ∧ HeadTaken h s t ∧ CountChanges hop.route (· + 2) s t ∧
        t = { s with
          dir := t.dir, fwd := t.fwd, sent := t.sent
          ports := { s.ports with
            grantedRequest := t.ports.grantedRequest, egress := placed.set m (s.egress m ++ [pkt]) } }) ∧
    (∀ m, hop.mirror = some m → s.link (.target m) ≠ .up ∨ s.ports.barredTarget.get m = true →
      ∃ t, exec (.forwardAttempt h) s = .next t ∧ HeadTaken h s t ∧ CountChanges hop.route (· + 1) s t ∧
        FlagRaised .mirrorSkipped (portMask (.target m)) s t ∧ NoticesOnly s t ∧
        t = { s with
          dir := t.dir, fwd := t.fwd, sent := t.sent, events := t.events
          ports := { s.ports with
            grantedRequest := t.ports.grantedRequest, egress := placed, returns := t.ports.returns } })

/-- A head that lacks a resource waits: it stays, and the waiting mark holds each needed resource that was not free
(R39, R40). -/
def Obligations.HeadWaits : Prop :=
  ∀ (s : State) (h : HostId) (r : Request) (m : WaitMark), FreshHead s h r → LacksFor s h r m → m ≠ .clear →
    exec (.forwardAttempt h) s = .next { s with fwd := { s.fwd with waiting := s.fwd.waiting.set h m } }

/-- The six lookup checks in their order, where reserved ranges are disjoint (R33 to R38, R24); whom a window admits: a GUARD entry
for the host decides alone, or else users and access (R37, R107); the address sent on: the request's own, or the TRANSLATE
record's target base plus the offset from the window's base (R43, R105); and the mirror port (R109). -/
def Obligations.LookupChecksInOrder : Prop :=
  (∀ (w : Window) (h : HostId) (k : RequestKind), FieldsFit w →
    (∀ es p, .guard es ∈ w.chain → (h, p) ∈ es →
      (windowAdmits w h k = true ↔ p = .readWrite ∨ p = .read ∧ k = .fetch)) ∧
    ((∀ es p, .guard es ∈ w.chain → (h, p) ∉ es) →
      (windowAdmits w h k = true ↔
        w.users.getLsbD h.index = true ∧
          (w.access = .readWrite ∨ w.access = .read ∧ k = .fetch ∨ w.access = .write ∧ k = .post))) ∧
    (∀ (b a : Addr), .translate b ∈ w.chain → w.base.toNat ≤ a.toNat → a.toNat ≤ w.limit.toNat →
      (forwardedAddress w a).toNat = b.toNat + (a.toNat - w.base.toNat)) ∧
    ((∀ b, .translate b ∉ w.chain) → ∀ a, forwardedAddress w a = a) ∧
    (∀ m, mirrorPort w.chain = some m ↔ .mirror m ∈ w.chain)) ∧
  ∀ (s : State) (h : HostId) (r : Request), RangesDisjoint s → 1 ≤ r.length →
    let first := r.address.toNat
    let last := first + r.length - 1
    (s.ports.barredHost.get h = true → lookup s h r = .refused .barred) ∧
    (s.ports.barredHost.get h = false →
      (∀ i w, (s.slot i).window = some w → ReservedAt s i first →
        (w.state = .staged → lookup s h r = .refused .noWindow) ∧
        (isDraining w.state = true → lookup s h r = .refused .closing) ∧
        (w.state = .live →
          (w.limit.toNat < last → lookup s h r = .refused .straddle) ∧
          (last ≤ w.limit.toNat →
            (windowAdmits w h r.kind = false → lookup s h r = .refused .denied) ∧
            (windowAdmits w h r.kind = true →
              (s.link (.target w.target) ≠ .up ∨ s.ports.barredTarget.get w.target = true →
                lookup s h r = .refused .portDown) ∧
              (s.link (.target w.target) = .up → s.ports.barredTarget.get w.target = false →
                lookup s h r = .forward
                  ⟨.window ⟨i, (s.slot i).generation⟩, w.target, forwardedAddress w r.address, mirrorPort w.chain⟩))))) ∧
      ((∀ i, ¬ReservedAt s i first) →
        ((∃ i, ∃ p ∈ slotReserved (s.slot i), p.first ≤ last ∧ first ≤ p.last) ∨ 2 ^ 48 - 1 < last →
          lookup s h r = .refused .straddle) ∧
        ((∀ i, ∀ p ∈ slotReserved (s.slot i), ¬(p.first ≤ last ∧ first ≤ p.last)) → last ≤ 2 ^ 48 - 1 →
          (s.dir.fallback = none → lookup s h r = .refused .noWindow) ∧
          ∀ g, s.dir.fallback = some g →
            (s.link (.target g) ≠ .up ∨ s.ports.barredTarget.get g = true → lookup s h r = .refused .portDown) ∧
            (s.link (.target g) = .up → s.ports.barredTarget.get g = false →
              lookup s h r = .forward ⟨.fallback, g, r.address, none⟩))))

/-! ### Sending and timers -/

/-- Delivery: while the port is UP with a credit, the head leaves and a POST lowers the count it names; without a credit, or while
the port is not UP, the queue holds still (R21, R151). The place freed is offered to the hosts that wait for it, in turn after the
queue's position, until one puts a packet into the queue, which becomes the position (R47, R49): the first of them, where its POST
goes to that queue alone, enters the tail. An offer's attempt is the one that FORWARD_ATTEMPT makes on a head that does not wait
(R31, R40). -/
def Obligations.DeliverySendsHead : Prop :=
  ∀ (s : State) (g : TargetId) (pkt : EgressPacket) (rest : List EgressPacket), s.egress g = pkt :: rest →
    (s.ctl.phase = .running → s.link (.target g) = .up → s.ports.held.get (.target g) ≠ 0 →
      ∃ t, exec (.delivery g) s = .next t ∧
        t.ports.held = s.ports.held.set (.target g) (s.ports.held.get (.target g) - 1) ∧
        s.sent ++ [(.target g, .egress pkt)] <+: t.sent ∧ rest <+: t.egress g ∧
        (∀ i, (s.entry i).state ≠ .free → t.entry i = s.entry i) ∧ t.ports.link = s.ports.link ∧
        (NoHostWaits s → NoDrains s →
          (namedRoute pkt = none → t.dir = s.dir) ∧
          (∀ r, namedRoute pkt = some r → CountChanges r (· - 1) s t) ∧
          t = { s with
            dir := t.dir
            ports := { s.ports with egress := s.ports.egress.set g rest, held := t.ports.held }
            sent := s.sent ++ [(.target g, .egress pkt)] }) ∧
        ∃ u, (namedRoute pkt = none → u.dir = s.dir) ∧ (∀ r, namedRoute pkt = some r → CountChanges r (· - 1) s u) ∧
          u = { s with
            dir := u.dir
            ports := { s.ports with egress := s.ports.egress.set g rest, held := t.ports.held }
            sent := s.sent ++ [(.target g, .egress pkt)] } ∧
          (NoDrainEnds u →
            HandOut s u t ∧
            ∀ h a d hop, FirstInTurn (.place g) s h → (s.ingress h).head? = some (.post a d) →
              lookup s h (.post a d) = .forward hop → hop.target = g → hop.mirror = none → rest.length < 16 →
              t.egress g = rest ++ [.post hop.route h hop.address d] ∧
                t.ports.egressPosition = s.ports.egressPosition.set g h ∧ t.ingress h = (s.ingress h).tail ∧
                t.mark h = .clear ∧ t.sent = u.sent ++ [(.host h, .credit .request 1)])) ∧
    (∀ h, s.ctl.phase = .running →
      ∃ t, exec (.forwardAttempt h) (s.setMark h .clear) = .next t ∧ NoticesFollow (attempt h none s) t) ∧
    (s.link (.target g) ≠ .up ∨ s.ports.held.get (.target g) = 0 → exec (.delivery g) s = .next s)

/-- The delivery of the last item of a DRAINING window completes its drain: the change is applied as a whole or the slot becomes
FREE, the job leaves the list and the others keep their order, and the order is answered DONE or its silent entry removed
(R16, R23, R110, R122 to R124). That its reply stands behind the old return queue also where a host waits for the freed place is
the model's order of completions before offers (log 15). -/
def Obligations.LastDeliveryCompletesDrain : Prop :=
  ∀ (s : State) (g : TargetId) (hd : Handle) (o : HostId) (a : Addr) (d : List Byte) (rest : List EgressPacket)
    (j : DrainJob) (w : Window) (e : OrderEntry),
    s.ctl.phase = .running → s.link (.target g) = .up → s.ports.held.get (.target g) ≠ 0 →
    s.egress g = .post (.window hd) o a d :: rest → DrainsFollowWindows s → TakenFollowsDrains s → DrainingHasTraffic s →
    j ∈ s.eng.drains → j.handle.slot = hd.slot → (s.slot hd.slot).window = some w → (s.slot hd.slot).count = 1 →
    e ∈ s.orders j.source → e.state = .taken hd.slot →
    ∃ t, exec (.delivery g) s = .next t ∧
      (∀ c, w.state = .drainChange c →
        (t.slot hd.slot).window = some { changed c w with state := .live } ∧
          (t.slot hd.slot).generation = (s.slot hd.slot).generation) ∧
      (w.state = .drainRetire →
        (t.slot hd.slot).window = none ∧ (t.slot hd.slot).generation = (s.slot hd.slot).generation + 1) ∧
      t.eng.drains = s.eng.drains.filter (fun k => k.handle.slot != hd.slot) ∧
      (e.silent = false →
        s.returns j.source ++ [.orderReply e.sequence e.code .done []] <+: t.returns j.source ∧
          { e with state := .answered } ∈ t.orders j.source) ∧
      (e.silent = true → t.orders j.source = (s.orders j.source).erase e) ∧
      (∀ i, i ≠ hd.slot → (t.slot i).window = (s.slot i).window)

/-- Sending from a return queue: while the port is UP with a RETURN credit, the head leaves; a REPLY frees its entry, an
ORDER_REPLY its order place, with one ORDER credit going back, and a NOTICE or a notification POST lets an owed one follow (R65,
R75, R152, R182, R184); without a credit, or while the port is not UP, the queue holds still. The entry freed is offered to the
hosts that wait for one, in turn after the position, until one allocates it, which becomes the position (R46, R49): the first of
them allocates that entry, whether its FETCH is refused or forwarded (R41, R44, R53). -/
def Obligations.ReturnQueueSendsHead : Prop :=
  ∀ (s : State) (src : Source) (pkt : ReturnPacket) (rest : List ReturnPacket), s.returns src = pkt :: rest →
    (s.ctl.phase = .running → s.link src.port = .up → s.ports.held.get src.port ≠ 0 →
      ∃ t, exec (.returnQueueSending src) s = .next t ∧
        t.ports.held = s.ports.held.set src.port (s.ports.held.get src.port - 1) ∧
        s.sent ++ [(src.port, .back pkt)] <+: t.sent ∧ rest <+: t.returns src ∧
        (∀ i tag st d a, pkt = .reply i tag st d → (s.entry i).state = .answered a →
          (t.entry i).epoch = (s.entry i).epoch + 1 ∧ (NoHostWaits s → (t.entry i).state = .free) ∧
            ∀ k, k ≠ i → (s.entry k).state ≠ .free → t.entry k = s.entry k) ∧
        (∀ q code st rs older e newer, pkt = .orderReply q code st rs → s.orders src = older ++ e :: newer →
          (∀ x ∈ older, isAnsweredAs q x = false) → isAnsweredAs q e = true →
          t.sent = s.sent ++ [(src.port, .back pkt), (src.port, .credit .order 1)] ∧
            t = { s with
              eng := { s.eng with orders := s.eng.orders.set src (older ++ newer) }
              ports := { s.ports with
                held := t.ports.held
                grantedOrder := s.ports.grantedOrder.set src (s.ports.grantedOrder.get src + 1)
                returns := s.ports.returns.set src rest }
              sent := t.sent }) ∧
        (∀ fs, pkt = .notice fs → src = .mgmt → s.events.noticeOwed = true →
          t.events.noticeOwed = false ∧
            t.returns .mgmt = rest ++
              (if s.events.pending &&& s.events.enabled = 0 then []
               else [.notice (s.events.pending &&& s.events.enabled)])) ∧
        (∀ a v h, pkt = .notification a v → src = .host h → s.events.setting.host = some h →
          s.events.notificationOwed = true →
          t.events.notificationOwed = false ∧
            t.returns (.host h) = rest ++
              (if s.ports.barredHost.get h = true ∨ s.events.pending &&& s.events.enabled = 0 then []
               else [.notification s.events.setting.address
                 (s.events.setting.dataBase + BitVec.ofNat 32 (topPriority (s.events.pending &&& s.events.enabled)))])) ∧
        (∀ i tag st d x, pkt = .reply i tag st d → (s.entry i).state = .answered x →
          ∃ u, u = { s with
              table := { s.table with entries := s.table.entries.set i.val ⟨(s.entry i).epoch + 1, .free⟩ i.isLt }
              ports := { s.ports with held := t.ports.held, returns := s.ports.returns.set src rest }
              sent := s.sent ++ [(src.port, .back pkt)] } ∧
            HandOut s u t ∧
            ∀ h tag' a n, FirstInTurn (.entry i) s h → (s.ingress h).head? = some (.fetch tag' a n) →
              ¬DuplicateTag u h tag' →
              (∀ st', lookup s h (.fetch tag' a n) = .refused st' →
                t.entry i = ⟨(s.entry i).epoch + 1, .answered ⟨h, tag', s.ports.session.get h, none, st', []⟩⟩ ∧
                  u.returns (.host h) ++ [.reply i tag' st' []] <+: t.returns (.host h) ∧ t.table.position = h ∧
                  t.ingress h = (s.ingress h).tail ∧ t.mark h = .clear) ∧
              ∀ hop, lookup s h (.fetch tag' a n) = .forward hop → (s.egress hop.target).length < 16 →
                t.entry i = ⟨(s.entry i).epoch + 1,
                    .waiting ⟨h, tag', s.ports.session.get h, false, n, hop.route, hop.target, s.eng.replyLimit⟩⟩ ∧
                  t.egress hop.target = s.egress hop.target ++ [.fetch i ((s.entry i).epoch + 1) hop.address n] ∧
                  t.table.position = h ∧ t.ingress h = (s.ingress h).tail ∧ t.mark h = .clear) ∧
        (NoHostWaits s → t.dir = s.dir ∧ t.fwd = s.fwd ∧ t.ports.egress = s.ports.egress ∧ t.ports.link = s.ports.link)) ∧
    (s.link src.port ≠ .up ∨ s.ports.held.get src.port = 0 → exec (.returnQueueSending src) s = .next s)

/-- A reply timer runs out with its entry WAITING: the entry leaves WAITING with TIMEOUT, and REPLY_TIMEOUT is set with its
target, for an orphan too; a FREE or ANSWERED entry has no timer (R61, R62, R68). The drain that the entry was the last item of
completes at that event, the order's reply behind the REPLY (R122 to R124, R128), or else the entry and the place it frees are
handed to the hosts that wait (R46, R47), the place also where the entry's taker has filled the queue again (log 26). -/
def Obligations.ReplyTimerExpires : Prop :=
  ∀ (s : State) (i : Fin Config.replyEntries),
    (∀ w, s.ctl.phase = .running → (s.entry i).state = .waiting w →
      ∃ t, exec (.replyTimerExpiry i) s = .next t ∧ LeftWaiting i w .timeout [] s t ∧
        FlagShows .replyTimeout (.target w.target) t ∧
        (NoHostWaits s → FlagRaised .replyTimeout (portMask (.target w.target)) s t ∧ t.fwd = s.fwd ∧ t.sent = s.sent) ∧
        (∃ u, EntryLeft i w .timeout [] s u ∧ FlagRaised .replyTimeout (portMask (.target w.target)) s u ∧
          (NoDrainEnds u → HandOut s u t) ∧
          ∀ j win e, LastOf w.route j win e s → DrainCompletes j win e (u.returns j.source) s t) ∧
        (NoDrains s → t.eng = s.eng) ∧ t.ports.link = s.ports.link ∧ t.ports.held = s.ports.held) ∧
    ((∀ w, (s.entry i).state ≠ .waiting w) → exec (.replyTimerExpiry i) s = .next s)

/-- The drain timer of a GENTLE job runs out: the drain is abandoned, the window LIVE as it was, a pending attach's record back in
the pool, DRAIN_EXPIRED set, and the order answered DRAIN_EXPIRED or its silent entry removed (R15, R125, beside R4: log 24). -/
def Obligations.GentleDrainExpires : Prop :=
  ∀ (s : State) (j : DrainJob) (w : Window) (e : OrderEntry), s.ctl.phase = .running → DrainsFollowWindows s →
    TakenFollowsDrains s → j ∈ s.eng.drains → j.mode = .gentle → (s.slot j.handle.slot).window = some w →
    e ∈ s.orders j.source → e.state = .taken j.handle.slot →
    ∃ t, exec (.drainTimerExpiry j.handle.slot) s = .next t ∧
      WindowBecomes j.handle.slot (some { w with state := .live }) (s.slot j.handle.slot).generation
        (match w.state with | .drainChange (.attach _) => s.dir.poolFree + 1 | _ => s.dir.poolFree) s t ∧
      t.eng.drains = s.eng.drains.filter (fun k => k.handle.slot != j.handle.slot) ∧
      FlagRaised .drainExpired 0 s t ∧
      (e.silent = false →
        NoticesOnly (pushReturn j.source (.orderReply e.sequence e.code .drainExpired []) s) t ∧
          ∃ older newer, s.orders j.source = older ++ e :: newer ∧
            t.orders j.source = older ++ { e with state := .answered } :: newer) ∧
      (e.silent = true → t.orders j.source = (s.orders j.source).erase e ∧ NoticesOnly s t) ∧
      (∀ other, other ≠ j.source → t.orders other = s.orders other) ∧
      t = { s with
        dir := t.dir
        eng := { s.eng with orders := t.eng.orders, drains := t.eng.drains }
        ports := { s.ports with returns := t.ports.returns }
        events := t.events }

/-- The drain timer of a FORCE job runs out: the window's WAITING entries end ABORTED, its POSTs are lost, its purpose is carried
out at the same event, FORCED_REMOVAL is set and DRAIN_EXPIRED is not, and the order is answered DONE behind the REPLYs
(R64, R122 to R124, R126, R127); what it frees is handed to the hosts that wait (R46, R47), every place freed (log 26). That the
order's reply stands before what the offers place is log 15. -/
def Obligations.ForceDrainExpires : Prop :=
  ∀ (s : State) (j : DrainJob) (w : Window) (e : OrderEntry), s.ctl.phase = .running → DrainsFollowWindows s →
    TakenFollowsDrains s → DrainingHasTraffic s → CountsMatch s → EgressFollowsEntries s → j ∈ s.eng.drains →
    j.mode = .force → (s.slot j.handle.slot).window = some w → e ∈ s.orders j.source → e.state = .taken j.handle.slot →
    let picks := fun x : Waiting => x.route == .window j.handle
    ∃ t, exec (.drainTimerExpiry j.handle.slot) s = .next t ∧
      AllLeftWaiting picks .aborted s t ∧
      (∀ g, (s.egress g).any (fun pkt => namedRoute pkt == some (.window j.handle)) = true → FlagShows .postsLost (.target g) t) ∧
      t.events.pending.getLsbD Flag.forcedRemoval.bit.val = true ∧
      t.events.pending.getLsbD Flag.drainExpired.bit.val = s.events.pending.getLsbD Flag.drainExpired.bit.val ∧
      (∀ c, w.state = .drainChange c →
        (t.slot j.handle.slot).window = some { changed c w with state := .live } ∧
          (t.slot j.handle.slot).generation = (s.slot j.handle.slot).generation) ∧
      (w.state = .drainRetire →
        (t.slot j.handle.slot).window = none ∧
          (t.slot j.handle.slot).generation = (s.slot j.handle.slot).generation + 1) ∧
      t.eng.drains = s.eng.drains.filter (fun k => k.handle.slot != j.handle.slot) ∧
      (e.silent = false →
        s.returns j.source ++ (match j.source with | .host h => repliesFor s h picks .aborted | .mgmt => []) ++
          [.orderReply e.sequence e.code .done []] <+: t.returns j.source) ∧
      (∀ i, i ≠ j.handle.slot → (t.slot i).window = (s.slot i).window) ∧
      ∃ u, u.fwd = s.fwd ∧ u.table.position = s.table.position ∧
        (∀ i, u.entry i = endedEntry picks .aborted (s.entry i)) ∧ u.ports.egressPosition = s.ports.egressPosition ∧
        (∀ g, u.egress g = (s.egress g).filter fun pkt =>
          match pkt with
          | .post r _ _ _ => r != .window j.handle
          | .fetch i _ _ _ =>
            match (s.entry i).state with
            | .waiting x => !picks x
            | _ => true) ∧
        HandOut s u t ∧ (NoHostWaits s → ∀ g, t.egress g = u.egress g)

/-! ### Orders: which, and whether -/

/-- The arbiter serves the first source after its position, in the order M, H0 to H3, that has a QUEUED entry, and decides that
source's oldest QUEUED entry (R78). -/
def Obligations.ArbiterServesInTurn : Prop :=
  ∀ s : State,
    (nextOrder s = none ↔ ∀ src, ∀ e ∈ s.orders src, e.state ≠ .queued) ∧
    ∀ src e, nextOrder s = some (src, e) →
      (∃ older newer, s.orders src = older ++ e :: newer ∧ e.state = .queued ∧ ∀ x ∈ older, x.state ≠ .queued) ∧
      ∃ before after, sourcesAfter s.eng.position = before ++ src :: after ∧
        ∀ other ∈ before, ∀ x ∈ s.orders other, x.state ≠ .queued

/-- The first check: a host's order is refused BARRED, NO_RIGHTS, MGMT_ONLY or NO_RIGHTS, by the first of the four questions that
fails, and changes nothing (R82). -/
def Obligations.SourceCheckRefuses : Prop :=
  ∀ (s : State) (h : HostId) (e : OrderEntry) (o : OrderName) (st : Status), Decides s (.host h) e o →
    ((s.ports.barredHost.get h = true ∧ st = .barred) ∨
      (s.ports.barredHost.get h = false ∧ s.eng.rights.get h = .none ∧ st = .noRights) ∨
      (s.ports.barredHost.get h = false ∧ s.eng.rights.get h ≠ .none ∧ o.cls = .management ∧ st = .mgmtOnly) ∨
      (s.ports.barredHost.get h = false ∧ s.eng.rights.get h = .view ∧ o.cls = .window ∧ st = .noRights)) →
    ∃ t, exec o.command s = .next t ∧ OrderAnswered (.host h) e st [] s t ∧ AnswerFrame s t

/-- The second to sixth checks of an order whose source passes the first: FROZEN for a changing order, then for an order that
names a window NOT_FOUND or STALE, NOT_OWNER, LOCKED, BUSY or WRONG_STATE, the first that fails, and nothing changes
(R83 to R86, R142, R145). That a handle of a FREE slot is NOT_FOUND is R1's, beside R16 (log 23). -/
def Obligations.LaterChecksRefuse : Prop :=
  ∀ (s : State) (src : Source) (e : OrderEntry) (o : OrderName) (st : Status), Decides s src e o → MayOrder s src o →
    ((o.changes = true ∧ s.eng.frozen = true ∧ st = .frozen) ∨
      ((o.changes = true → s.eng.frozen = false) ∧
        o ∈ [OrderName.query, .activate, .modify, .retire, .lock, .attach, .detach] ∧
        ∃ i : Fin Config.slots, (blockByte e.block 0).toNat = i.val ∧
          (((s.slot i).window = none ∧ st = .notFound) ∨
            ∃ w, (s.slot i).window = some w ∧
              (((s.slot i).generation ≠ blockByte e.block 1 ∧ st = .stale) ∨
                (s.slot i).generation = blockByte e.block 1 ∧ o ≠ .query ∧
                  ((¬Owns src w ∧ st = .notOwner) ∨
                    Owns src w ∧
                      ((w.locked = true ∧ o ∈ [OrderName.modify, .retire, .attach, .detach] ∧ st = .locked) ∨
                        (w.locked = false ∨ o ∈ [OrderName.activate, .lock]) ∧
                          ((isDraining w.state = true ∧ st = .busy) ∨
                            (o = .activate ∧ w.state = .live ∧ st = .wrongState) ∨
                            (o = .lock ∧ w.state = .staged ∧ st = .wrongState)))))))) →
    ∃ t, exec o.command s = .next t ∧ OrderAnswered src e st [] s t ∧ AnswerFrame s t

/-- Operand and resource refusals: a slot number of 64 or more, or operands without a value, are BAD_OPERAND; an OPEN or a MODIFY
is refused OUTSIDE_ALLOTMENT or OVERLAP for its range, an OPEN NO_SLOT; an ATTACH is refused DUPLICATE_KIND or NO_SPACE; an order
that would start a ninth drain is refused BUSY; a MODIFY with a supplied target, access or users that has no code is BAD_OPERAND; and
nothing changes (R1, R2, R14, R25, R87 to R89, R92, R93, R111, R138, R154, R171, R188, R189). -/
def Obligations.OperandsAndResourcesRefuse : Prop :=
  ∀ (s : State) (src : Source) (e : OrderEntry) (o : OrderName) (st : Status), Decides s src e o → MayOrder s src o →
    (o.changes = true → s.eng.frozen = false) →
    ((o ∈ [OrderName.query, .activate, .modify, .retire, .lock, .attach, .detach] ∧ 64 ≤ (blockByte e.block 0).toNat ∧
        st = .badOperand) ∨
      (st = .badOperand ∧
        (o = .setFallback ∧ fallbackOperand e.block = none ∨ o = .setRights ∧ rightsOperands e.block = none ∨
          (o = .barPort ∨ o = .enablePort) ∧ barOperand e.block = none ∨ o = .setNotify ∧ notifyOperands e.block = none ∨
          o = .setTimers ∧ timerOperands e.block = none)) ∨
      (o = .openWindow ∧
        ((openOperands e.block src = none ∧ st = .badOperand) ∨
          ∃ w, openOperands e.block src = some w ∧
            ((∃ h, src = .host h ∧ insideAllotment (s.eng.allotment.get h) (currentSpan w) = false ∧
                st = .outsideAllotment) ∨
              (∀ h, src = .host h → insideAllotment (s.eng.allotment.get h) (currentSpan w) = true) ∧
                ((overlapsOther s none (currentSpan w) = true ∧ st = .overlap) ∨
                  (overlapsOther s none (currentSpan w) = false ∧ (∀ i, (s.slot i).window ≠ none) ∧ st = .noSlot))))) ∨
      (∃ i w, MayChangeWindow s src e i w ∧
        ((o ∈ [OrderName.modify, .retire, .attach, .detach] ∧ modeOf e.block = none ∧ st = .badOperand) ∨
          (o = .modify ∧
            (supplied e.block 2 = true ∧ targetOf e.block = none ∨ supplied e.block 3 = true ∧ accessOf e.block = none ∨
              supplied e.block 4 = true ∧ usersOf e.block = none) ∧ st = .badOperand) ∨
          ((modeOf e.block).isSome = true ∧
            ((o = .modify ∧ ∃ f, modifyOperands e.block = some f ∧
                ((modifyIsBad f w = true ∧ st = .badOperand) ∨
                  modifyIsBad f w = false ∧ f.movesRange = true ∧
                    ((∃ h, w.owner = .host h ∧ insideAllotment (s.eng.allotment.get h) (modifiedSpan f w) = false ∧
                        st = .outsideAllotment) ∨
                      (∀ h, w.owner = .host h → insideAllotment (s.eng.allotment.get h) (modifiedSpan f w) = true) ∧
                        overlapsOther s (some i) (modifiedSpan f w) = true ∧ st = .overlap))) ∨
              (o = .attach ∧ attachOperands e.block w = none ∧ st = .badOperand) ∨
              (o = .attach ∧ ∃ r, attachOperands e.block w = some r ∧
                ((r.kind ∈ w.chain.map ExtRecord.kind ∧ st = .duplicateKind) ∨
                  (r.kind ∉ w.chain.map ExtRecord.kind ∧ s.dir.poolFree = 0 ∧ st = .noSpace))) ∨
              (o = .detach ∧ (∀ k, kindOf e.block = some k → k ∉ w.chain.map ExtRecord.kind) ∧ st = .badOperand))) ∨
          (w.state = .live ∧ (s.slot i).count ≠ 0 ∧ Config.drainPlaces ≤ s.eng.drains.length ∧ st = .busy ∧
            ((o = .retire ∧ (modeOf e.block).isSome = true) ∨
              ∃ c m, ChangePasses o s i w e.block c m ∧ isRouting c = true))))) →
    ∃ t, exec o.command s = .next t ∧ OrderAnswered src e st [] s t ∧ AnswerFrame s t

/-- An order whose code names no order is answered UNKNOWN_ORDER before the checks, whatever its source, its rights or its barred
flag; it changes nothing and carries no results (R81). -/
def Obligations.UnknownOrderAnswered : Prop :=
  ∀ (s : State) (src : Source) (e : OrderEntry), s.ctl.phase = .running → nextOrder s = some (src, e) →
    (e.code = 0 ∨ 0x18 ≤ e.code.toNat) →
    ∃ t, exec .unknownOrder s = .next t ∧ OrderAnswered src e .unknownOrder [] s t ∧ AnswerFrame s t

/-! ### Orders carried out -/

/-- QUERY, FIND, LIST and READ_STATUS are answered DONE with their results and change nothing else (R98 to R100, R190). QUERY
reports the window's fields, count and chain, and for a DRAINING one purpose, mode and pending change; FIND the handle and state of
the window that reserves the address, or none with the fallback indication; LIST a count, up to 8 windows at or above the start
address in strictly increasing order of base, and whether there are more (R20). READ_STATUS has 43 bytes (log 25). -/
def Obligations.ViewOrdersAnswer : Prop :=
  (∀ (s : State) (src : Source) (e : OrderEntry), MayView s src →
    (∀ i w, Decides s src e .query → NamesWindow s e.block i w →
      ∃ t, exec .query s = .next t ∧ OrderAnswered src e .done (queryBytes s i w) s t ∧ AnswerFrame s t) ∧
    (Decides s src e .find →
      ∃ t, exec .find s = .next t ∧ OrderAnswered src e .done (findBytes s (baseOf e.block)) s t ∧ AnswerFrame s t) ∧
    (Decides s src e .list →
      ∃ t, exec .list s = .next t ∧ OrderAnswered src e .done (listBytes s (baseOf e.block)) s t ∧ AnswerFrame s t) ∧
    (Decides s src e .readStatus →
      ∃ t, exec .readStatus s = .next t ∧ OrderAnswered src e .done (statusBytes s) s t ∧ AnswerFrame s t)) ∧
  ∀ (s : State) (start : Addr),
    (statusBytes s).length = 43 ∧
      (statusBytes s).take 10 =
        [0x5A, 0x31, 0x04, 0x64, 1, BitVec.ofNat 8 ((List.finRange 64).countP fun i => (s.slot i).window == none),
         BitVec.ofNat 8 s.dir.poolFree, BitVec.ofNat 8 ((List.finRange 48).countP fun i => (s.entry i).state == .free),
         BitVec.ofNat 8 s.eng.drains.length, if s.eng.frozen then 1 else 0] ∧
      (∀ i w, (s.slot i).window = some w →
        queryBytes s i w =
          [BitVec.ofNat 8 i.val, (s.slot i).generation, windowStateCode w.state] ++ beBytes 6 w.base.toNat ++
            beBytes 6 w.limit.toNat ++
            [portCode (.target w.target), accessCode w.access, w.users.setWidth 8, portCode w.owner.port,
             if w.locked then 1 else 0, BitVec.ofNat 8 (s.slot i).count, BitVec.ofNat 8 w.chain.length] ++
            w.chain.flatMap recordBytes ++ drainBytes s i w ∧
        (w.state = .staged ∨ w.state = .live → drainBytes s i w = []) ∧
        ∀ j ∈ s.eng.drains, DrainsFollowWindows s → j.handle.slot = i →
          (w.state = .drainRetire → drainBytes s i w = [1, modeCode j.mode]) ∧
          ∀ c, w.state = .drainChange c → drainBytes s i w = [2, modeCode j.mode] ++ changeBytes c) ∧
      (∀ (i : Fin Config.slots) (w : Window), RangesDisjoint s → (s.slot i).window = some w → ReservedAt s i start.toNat →
        findBytes s start = [1, BitVec.ofNat 8 i.val, (s.slot i).generation, windowStateCode w.state]) ∧
      ((∀ i, ¬ReservedAt s i start.toNat) → findBytes s start = [2, if s.dir.fallback = none then 0 else 1]) ∧
      listBytes s start =
        [BitVec.ofNat 8 (min 8 (listedFrom s start).length)] ++
          ((listedFrom s start).take 8).flatMap (fun x =>
            [BitVec.ofNat 8 x.handle.slot.val, x.handle.generation] ++ beBytes 6 x.base.toNat) ++
          [if 8 < (listedFrom s start).length then 1 else 0] ∧
      (RangesDisjoint s → WindowsFit s → (listedFrom s start).Pairwise (fun x y => x.base.toNat < y.base.toNat)) ∧
      (listedFrom s start).Pairwise (fun x y => x.base.toNat ≤ y.base.toNat) ∧
      ∀ x, x ∈ listedFrom s start ↔
        ∃ w, (s.slot x.handle.slot).window = some w ∧ x.handle.generation = (s.slot x.handle.slot).generation ∧
          x.base = w.base ∧ start.toNat ≤ w.base.toNat

/-- An OPEN that passes every check fills the lowest-numbered FREE slot at its current generation and is answered with the handle
(R2, R11, R89, R90). -/
def Obligations.OpenFillsLowestFreeSlot : Prop :=
  ∀ (s : State) (src : Source) (e : OrderEntry) (w : Window) (i : Fin Config.slots),
    Decides s src e .openWindow → MayChange s src → s.eng.frozen = false → openOperands e.block src = some w →
    (∀ h, src = .host h → insideAllotment (s.eng.allotment.get h) (currentSpan w) = true) →
    overlapsOther s none (currentSpan w) = false →
    (s.slot i).window = none → (∀ k, k < i → (s.slot k).window ≠ none) →
    w.owner = src ∧ w.locked = false ∧ w.chain = [] ∧ (w.state = .staged ∨ w.state = .live) ∧
    ∃ t, exec .openWindow s = .next t ∧
      OrderAnswered src e .done [BitVec.ofNat 8 i.val, (s.slot i).generation] s t ∧
      t.dir = { s.dir with slots := s.dir.slots.set i.val ⟨(s.slot i).generation, 0, some w⟩ i.isLt } ∧ DirectoryFrame s t

/-- ACTIVATE makes a STAGED window LIVE, LOCK locks a LIVE one, locked or not, and both keep every other field (R8, R12, R91,
R97). -/
def Obligations.ActivateAndLockAct : Prop :=
  ∀ (s : State) (src : Source) (e : OrderEntry) (i : Fin Config.slots) (w : Window),
    MayChange s src → s.eng.frozen = false → NamesWindow s e.block i w → Owns src w →
    (Decides s src e .activate → w.state = .staged →
      ∃ t, exec .activate s = .next t ∧ OrderAnswered src e .done [] s t ∧
        WindowBecomes i (some { w with state := .live }) (s.slot i).generation s.dir.poolFree s t ∧ DirectoryFrame s t) ∧
    (Decides s src e .lock → w.state = .live →
      ∃ t, exec .lock s = .next t ∧ OrderAnswered src e .done [] s t ∧
        WindowBecomes i (some { w with locked := true }) (s.slot i).generation s.dir.poolFree s t ∧ DirectoryFrame s t)

/-- MODIFY, ATTACH and DETACH are carried out at once on a STAGED window, on a LIVE one whose count is zero, and for a
non-routing change, and a RETIRE frees a STAGED window or a LIVE one whose count is zero (R13, R16, R94, R96, R112, R114). -/
def Obligations.ChangesApplyAtOnce : Prop :=
  ∀ (s : State) (src : Source) (e : OrderEntry) (i : Fin Config.slots) (w : Window), WindowsFit s →
    MayChangeWindow s src e i w →
    (∀ o c m, Decides s src e o → ChangePasses o s i w e.block c m →
      (w.state = .staged ∨ (s.slot i).count = 0 ∨ isRouting c = false) →
      ∃ t, exec o.command s = .next t ∧ OrderAnswered src e .done [] s t ∧
        WindowBecomes i (some (changed c w)) (s.slot i).generation (poolAfter c s.dir.poolFree) s t ∧ DirectoryFrame s t) ∧
    (Decides s src e .retire → (modeOf e.block).isSome = true → (w.state = .staged ∨ (s.slot i).count = 0) →
      ∃ t, exec .retire s = .next t ∧ OrderAnswered src e .done [] s t ∧
        WindowBecomes i none ((s.slot i).generation + 1) (s.dir.poolFree + w.chain.length) s t ∧ DirectoryFrame s t)

/-- A RETIRE, or a routing change by MODIFY, ATTACH or DETACH, on a LIVE window with traffic in flight starts a drain: the window
is DRAINING, a job with the drain limit in force joins the tail of the list, the order's entry is TAKEN, and no reply is queued
(R14, R112, R119). -/
def Obligations.RoutingChangesStartDrains : Prop :=
  ∀ (s : State) (src : Source) (e : OrderEntry) (i : Fin Config.slots) (w : Window) (m : Mode),
    MayChangeWindow s src e i w → DrainsNow s i w →
    (∀ o c, Decides s src e o → ChangePasses o s i w e.block c m → isRouting c = true →
      ∃ t, exec o.command s = .next t ∧ OrderTaken src e i s t ∧
        WindowBecomes i (some { w with state := .drainChange c }) (s.slot i).generation
          (poolReserved c s.dir.poolFree) s t ∧
        t.eng.drains = s.eng.drains ++
          [⟨⟨i, (s.slot i).generation⟩, .change, m, src, e.sequence, e.code, s.eng.drainLimit⟩] ∧ DrainFrame s t) ∧
    (Decides s src e .retire → modeOf e.block = some m →
      ∃ t, exec .retire s = .next t ∧ OrderTaken src e i s t ∧
        WindowBecomes i (some { w with state := .drainRetire }) (s.slot i).generation s.dir.poolFree s t ∧
        t.eng.drains = s.eng.drains ++
          [⟨⟨i, (s.slot i).generation⟩, .retire, m, src, e.sequence, e.code, s.eng.drainLimit⟩] ∧ DrainFrame s t)

/-- SET_FALLBACK, SET_RIGHTS, FREEZE, BAR_PORT, ENABLE_PORT, SET_TIMERS, SET_NOTIFY and CLEAR_RESET_CAUSE from M write their
setting, with the setting before the decision as result (R25, R139, R144, R154, R188, R189, R191). -/
def Obligations.SettingOrdersWrite : Prop :=
  ∀ (s : State) (e : OrderEntry),
    (∀ f, Decides s .mgmt e .setFallback → s.eng.frozen = false → fallbackOperand e.block = some f →
      ∃ t, exec .setFallback s = .next t ∧ OrderAnswered .mgmt e .done [] s t ∧
        t.dir = { s.dir with fallback := f } ∧ DirectoryFrame s t) ∧
    (∀ h r a, Decides s .mgmt e .setRights → s.eng.frozen = false → rightsOperands e.block = some (h, r, a) →
      ∃ t, exec .setRights s = .next t ∧
        OrderAnswered .mgmt e .done (rightsBytes (s.eng.rights.get h) (s.eng.allotment.get h)) s t ∧
        t = { s with
          eng := { s.eng with
            orders := t.eng.orders, position := t.eng.position
            rights := s.eng.rights.set h r, allotment := s.eng.allotment.set h a }
          ports := { s.ports with returns := t.ports.returns } }) ∧
    (Decides s .mgmt e .freeze →
      ∃ t, exec .freeze s = .next t ∧ OrderAnswered .mgmt e .done [if s.eng.frozen then 1 else 0] s t ∧
        t = { s with
          eng := { s.eng with orders := t.eng.orders, position := t.eng.position, frozen := true }
          ports := { s.ports with returns := t.ports.returns } }) ∧
    (∀ o b p, (o = .barPort ∧ b = true ∨ o = .enablePort ∧ b = false) → Decides s .mgmt e o → barOperand e.block = some p →
      ∃ t, exec (OrderName.command o) s = .next t ∧
        OrderAnswered .mgmt e .done [if isBarred p s then 1 else 0] s t ∧
        (∀ h, p = .host h → t.ports.barredHost = s.ports.barredHost.set h b ∧ t.ports.barredTarget = s.ports.barredTarget) ∧
        (∀ g, p = .target g → t.ports.barredTarget = s.ports.barredTarget.set g b ∧ t.ports.barredHost = s.ports.barredHost) ∧
        t = { s with
          eng := { s.eng with orders := t.eng.orders, position := t.eng.position }
          ports := { s.ports with
            returns := t.ports.returns, barredHost := t.ports.barredHost, barredTarget := t.ports.barredTarget } }) ∧
    (∀ r d, Decides s .mgmt e .setTimers → r = replyLimitOf e.block → d = drainLimitOf e.block →
      1 ≤ r.toNat → 1 ≤ d.toNat → d.toNat ≤ 4095 →
      ∃ t, exec .setTimers s = .next t ∧
        OrderAnswered .mgmt e .done (beBytes 2 s.eng.replyLimit.toNat ++ beBytes 2 s.eng.drainLimit.toNat) s t ∧
        t = { s with
          eng := { s.eng with orders := t.eng.orders, position := t.eng.position, replyLimit := r, drainLimit := d }
          ports := { s.ports with returns := t.ports.returns } }) ∧
    (∀ n, Decides s .mgmt e .setNotify → notifyOperands e.block = some n →
      ∃ t, exec .setNotify s = .next t ∧ OrderAnswered .mgmt e .done (settingBytes s.events.setting) s t ∧
        t = { s with
          eng := { s.eng with orders := t.eng.orders, position := t.eng.position }
          ports := { s.ports with returns := t.ports.returns }
          events := { s.events with setting := n, notificationOwed := false } }) ∧
    (Decides s .mgmt e .clearResetCause →
      ∃ t, exec .clearResetCause s = .next t ∧ OrderAnswered .mgmt e .done [causeByte s.ctl.cause] s t ∧
        t = { s with
          ctl := { s.ctl with cause := ⟨false, false, false⟩ }
          eng := { s.eng with orders := t.eng.orders, position := t.eng.position }
          ports := { s.ports with returns := t.ports.returns } })

/-- READ_EVENTS reports, CLEAR_EVENTS clears the pending marks and detail sets of the flags named, and SET_EVENT_ENABLES writes
the whole enable set, NOTE_N following; where that is an occasion, M and the notified host get theirs behind its own reply, or
are owed it (R181 to R183, R185 to R187). The form of READ_EVENTS' result is log 16, and what an occasion is log 21. -/
def Obligations.EventOrdersAct : Prop :=
  ∀ (s : State) (e : OrderEntry),
    (Decides s .mgmt e .readEvents →
      ∃ t, exec .readEvents s = .next t ∧ OrderAnswered .mgmt e .done (eventBytes s.events) s t ∧ AnswerFrame s t) ∧
    (Decides s .mgmt e .clearEvents →
      ∃ t, exec .clearEvents s = .next t ∧
        OrderAnswered .mgmt e .done (beBytes 2 (flagSetOf e.block &&& s.events.pending).toNat) s t ∧
        t.events.pending = s.events.pending &&& ~~~flagSetOf e.block ∧
        (∀ i : Fin 12, t.events.details[i] = if (flagSetOf e.block).getLsbD i.val then 0 else s.events.details[i]) ∧
        (t.events.noteN = true ↔ t.events.pending &&& t.events.enabled ≠ 0) ∧
        t = { s with
          eng := { s.eng with orders := t.eng.orders, position := t.eng.position }
          ports := { s.ports with returns := t.ports.returns }
          events := { s.events with
            pending := t.events.pending, details := t.events.details, noteN := t.events.noteN } }) ∧
    (Decides s .mgmt e .setEventEnables →
      ∃ t u, exec .setEventEnables s = .next t ∧
        u = pushReturn .mgmt (.orderReply e.sequence e.code .done (beBytes 2 s.events.enabled.toNat)) s ∧
        (∃ older newer, (∀ x ∈ older, x.state ≠ .queued) ∧ s.orders .mgmt = older ++ e :: newer ∧
          t.orders .mgmt = older ++ { e with state := .answered } :: newer) ∧
        t.events.enabled = flagSetOf e.block ∧ t.events.pending = s.events.pending ∧ t.events.details = s.events.details ∧
        t.events.setting = s.events.setting ∧
        (t.events.noteN = true ↔ t.events.pending &&& t.events.enabled ≠ 0) ∧
        (s.events.pending &&& flagSetOf e.block &&& ~~~s.events.enabled = 0 →
          t.ports.returns = u.ports.returns ∧ t.events.noticeOwed = s.events.noticeOwed ∧
            t.events.notificationOwed = s.events.notificationOwed) ∧
        (s.events.pending &&& flagSetOf e.block &&& ~~~s.events.enabled ≠ 0 →
          OccasionReaches (s.events.pending &&& flagSetOf e.block) u t) ∧
        t = { s with
          eng := { s.eng with orders := s.eng.orders.set .mgmt (t.orders .mgmt), position := .mgmt }
          ports := { s.ports with returns := t.ports.returns }
          events := t.events })

/-- RESET_PATHS: ingress queues emptied with every credit returned in one CREDIT, WAITING entries ended ABORTED, egress queues
emptied with POSTS_LOST, every drain completed, RESET_SEEN set and PATH recorded, the replies in the order of R193, and the rest
kept (R27, R51, R64, R72, R116, R130, R159, R191 to R193). -/
def Obligations.PathResetActs : Prop :=
  ∀ (s : State) (e : OrderEntry), Decides s .mgmt e .resetPaths → CountsMatch s → DrainsFollowWindows s →
    TakenFollowsDrains s →
    ∃ t, exec .resetPaths s = .next t ∧
      (∀ h, t.ingress h = [] ∧ t.mark h = .clear ∧
        t.ports.grantedRequest.get h = s.ports.grantedRequest.get h + (s.ingress h).length) ∧
      t.sent = s.sent ++ HostId.all.flatMap (fun h =>
        if s.ingress h = [] then [] else [(.host h, .credit .request (s.ingress h).length)]) ∧
      AllLeftWaiting (fun _ => true) .aborted s t ∧
      (∀ i w, (s.entry i).state = .waiting w → w.orphan = true → (t.entry i).state = .free) ∧
      (∀ g, t.egress g = [] ∧ ((s.egress g).any isPost = true → FlagShows .postsLost (.target g) t)) ∧
      t.dir.fallbackCount = 0 ∧ t.eng.drains = [] ∧
      (∀ i, (t.slot i).count = 0 ∧
        ((s.slot i).window = none → t.slot i = s.slot i) ∧
        ∀ w, (s.slot i).window = some w →
          (isDraining w.state = false → (t.slot i).window = some w ∧ (t.slot i).generation = (s.slot i).generation) ∧
          (∀ c, w.state = .drainChange c →
            (t.slot i).window = some { changed c w with state := .live } ∧
              (t.slot i).generation = (s.slot i).generation) ∧
          (w.state = .drainRetire → (t.slot i).window = none ∧ (t.slot i).generation = (s.slot i).generation + 1)) ∧
      t.events.pending.getLsbD Flag.resetSeen.bit.val = true ∧ t.ctl = { s.ctl with cause := { s.ctl.cause with path := true } } ∧
      (s.returns .mgmt ++
        (s.eng.drains.filterMap fun j =>
          if j.source = .mgmt ∧ (s.orders .mgmt).any (fun x => x.state == .taken j.handle.slot && !x.silent) = true then
            some (.orderReply j.sequence j.code .done [])
          else none) ++
        [.orderReply e.sequence e.code .done
          [BitVec.ofNat 8 (waitingEntries s), BitVec.ofNat 8 (queuedPosts s), BitVec.ofNat 8 s.eng.drains.length]])
        <+: t.returns .mgmt ∧
      t.eng = { s.eng with orders := t.eng.orders, position := .mgmt, drains := [] } ∧
      t.ports = { s.ports with
        grantedRequest := t.ports.grantedRequest, egress := t.ports.egress, returns := t.ports.returns } ∧
      t.table.position = s.table.position ∧ t.dir.fallback = s.dir.fallback
end

