-- ==== Sys2Proof/Laws/State.lean ====
section
/-! SUPPORT. One lemma per field per update of the state, true by rfl, and the laws of the containers: what a read gives after a
write. -/

namespace Sys2Proof

variable {α : Type}

@[simp] theorem PerHost.get_set_self (c : PerHost α) (h : HostId) (x : α) : (c.set h x).get h = x := by cases h <;> rfl

theorem PerHost.get_set_ne (c : PerHost α) (x : α) {a b : HostId} (hne : b ≠ a) : (c.set a x).get b = c.get b := by
  cases a <;> cases b <;> first | rfl | exact absurd rfl hne

theorem PerHost.get_set (c : PerHost α) (a b : HostId) (x : α) :
    (c.set a x).get b = if b = a then x else c.get b := by
  split
  · next e => rw [e, get_set_self]
  · next e => exact get_set_ne c x e

@[simp] theorem PerHost.set_get (c : PerHost α) (h : HostId) : c.set h (c.get h) = c := by cases h <;> rfl

@[simp] theorem PerHost.set_set (c : PerHost α) (h : HostId) (x y : α) : (c.set h x).set h y = c.set h y := by cases h <;> rfl

@[simp] theorem PerHost.get_replicate (x : α) (h : HostId) : (PerHost.replicate x).get h = x := by cases h <;> rfl

@[simp] theorem PerTarget.get_set_self (c : PerTarget α) (t : TargetId) (x : α) : (c.set t x).get t = x := by cases t <;> rfl

theorem PerTarget.get_set_ne (c : PerTarget α) (x : α) {a b : TargetId} (hne : b ≠ a) : (c.set a x).get b = c.get b := by
  cases a <;> cases b <;> first | rfl | exact absurd rfl hne

theorem PerTarget.get_set (c : PerTarget α) (a b : TargetId) (x : α) :
    (c.set a x).get b = if b = a then x else c.get b := by
  split
  · next e => rw [e, get_set_self]
  · next e => exact get_set_ne c x e

@[simp] theorem PerTarget.set_get (c : PerTarget α) (t : TargetId) : c.set t (c.get t) = c := by cases t <;> rfl

@[simp] theorem PerTarget.set_set (c : PerTarget α) (t : TargetId) (x y : α) : (c.set t x).set t y = c.set t y := by cases t <;> rfl

@[simp] theorem PerTarget.get_replicate (x : α) (t : TargetId) : (PerTarget.replicate x).get t = x := by cases t <;> rfl

@[simp] theorem PerSource.get_set_self (c : PerSource α) (src : Source) (x : α) : (c.set src x).get src = x := by
  cases src with
  | mgmt => rfl
  | host h => exact PerHost.get_set_self _ h x

theorem PerSource.get_set_ne (c : PerSource α) (x : α) {a b : Source} (hne : b ≠ a) : (c.set a x).get b = c.get b := by
  cases a <;> cases b <;> first | rfl | exact absurd rfl hne | exact PerHost.get_set_ne _ _ (fun e => hne (e ▸ rfl))

theorem PerSource.get_set (c : PerSource α) (a b : Source) (x : α) :
    (c.set a x).get b = if b = a then x else c.get b := by
  split
  · next e => rw [e, get_set_self]
  · next e => exact get_set_ne c x e

@[simp] theorem PerSource.set_get (c : PerSource α) (src : Source) : c.set src (c.get src) = c := by
  cases src with
  | mgmt => rfl
  | host h => exact congrArg (fun y => PerSource.mk _ y) (PerHost.set_get _ h)

@[simp] theorem PerSource.set_set (c : PerSource α) (src : Source) (x y : α) : (c.set src x).set src y = c.set src y := by
  cases src with
  | mgmt => rfl
  | host h => exact congrArg (fun y => PerSource.mk _ y) (PerHost.set_set _ h x y)

@[simp] theorem PerSource.get_replicate (x : α) (src : Source) : (PerSource.replicate x).get src = x := by
  cases src with
  | mgmt => rfl
  | host h => exact PerHost.get_replicate x h

@[simp] theorem PerPort.get_set_self (c : PerPort α) (p : Port) (x : α) : (c.set p x).get p = x := by
  cases p with
  | mgmt => rfl
  | host h => exact PerHost.get_set_self _ h x
  | target t => exact PerTarget.get_set_self _ t x

theorem PerPort.get_set_ne (c : PerPort α) (x : α) {a b : Port} (hne : b ≠ a) : (c.set a x).get b = c.get b := by
  cases a <;> cases b <;>
    first
      | rfl
      | exact absurd rfl hne
      | exact PerHost.get_set_ne _ _ (fun e => hne (e ▸ rfl))
      | exact PerTarget.get_set_ne _ _ (fun e => hne (e ▸ rfl))

theorem PerPort.get_set (c : PerPort α) (a b : Port) (x : α) :
    (c.set a x).get b = if b = a then x else c.get b := by
  split
  · next e => rw [e, get_set_self]
  · next e => exact get_set_ne c x e

@[simp] theorem PerPort.set_get (c : PerPort α) (p : Port) : c.set p (c.get p) = c := by
  cases p with
  | mgmt => rfl
  | host h => exact congrArg (fun y => PerPort.mk y _ _) (PerHost.set_get _ h)
  | target t => exact congrArg (fun y => PerPort.mk _ y _) (PerTarget.set_get _ t)

@[simp] theorem PerPort.set_set (c : PerPort α) (p : Port) (x y : α) : (c.set p x).set p y = c.set p y := by
  cases p with
  | mgmt => rfl
  | host h => exact congrArg (fun y => PerPort.mk y _ _) (PerHost.set_set _ h x y)
  | target t => exact congrArg (fun y => PerPort.mk _ y _) (PerTarget.set_set _ t x y)

@[simp] theorem PerPort.get_replicate (x : α) (p : Port) : (PerPort.replicate x).get p = x := by
  cases p with
  | mgmt => rfl
  | host h => exact PerHost.get_replicate x h
  | target t => exact PerTarget.get_replicate x t

namespace Machine.State

variable (s : State)

/-! ### setSlot -/

@[simp] theorem setSlot_ctl (i : Fin Config.slots) (x : Slot) : (s.setSlot i x).ctl = s.ctl := rfl

@[simp] theorem setSlot_dir_slots (i : Fin Config.slots) (x : Slot) : (s.setSlot i x).dir.slots = s.dir.slots.set i.val x i.isLt := rfl

@[simp] theorem setSlot_dir_poolFree (i : Fin Config.slots) (x : Slot) : (s.setSlot i x).dir.poolFree = s.dir.poolFree := rfl

@[simp] theorem setSlot_dir_fallback (i : Fin Config.slots) (x : Slot) : (s.setSlot i x).dir.fallback = s.dir.fallback := rfl

@[simp] theorem setSlot_dir_fallbackCount (i : Fin Config.slots) (x : Slot) : (s.setSlot i x).dir.fallbackCount = s.dir.fallbackCount := rfl

@[simp] theorem setSlot_fwd (i : Fin Config.slots) (x : Slot) : (s.setSlot i x).fwd = s.fwd := rfl

@[simp] theorem setSlot_table (i : Fin Config.slots) (x : Slot) : (s.setSlot i x).table = s.table := rfl

@[simp] theorem setSlot_eng (i : Fin Config.slots) (x : Slot) : (s.setSlot i x).eng = s.eng := rfl

@[simp] theorem setSlot_ports (i : Fin Config.slots) (x : Slot) : (s.setSlot i x).ports = s.ports := rfl

@[simp] theorem setSlot_events (i : Fin Config.slots) (x : Slot) : (s.setSlot i x).events = s.events := rfl

@[simp] theorem setSlot_pending (i : Fin Config.slots) (x : Slot) : (s.setSlot i x).pending = s.pending := rfl

@[simp] theorem setSlot_sent (i : Fin Config.slots) (x : Slot) : (s.setSlot i x).sent = s.sent := rfl

@[simp] theorem setSlot_slot_self (i : Fin Config.slots) (x : Slot) : (s.setSlot i x).slot i = x :=
  Vector.getElem_set_self i.isLt

theorem setSlot_slot_ne (i : Fin Config.slots) (x : Slot) {k : Fin Config.slots} (hne : k ≠ i) : (s.setSlot i x).slot k = s.slot k :=
  Vector.getElem_set_ne i.isLt k.isLt fun e => hne (Fin.ext e.symm)

theorem setSlot_slot (i : Fin Config.slots) (x : Slot) (k : Fin Config.slots) : (s.setSlot i x).slot k = if k = i then x else s.slot k := by
  split
  · next hk => rw [hk, setSlot_slot_self]
  · next hk => exact setSlot_slot_ne s i x hk

@[simp] theorem setSlot_entry (i : Fin Config.slots) (x : Slot) (k : Fin Config.replyEntries) : (s.setSlot i x).entry k = s.entry k := rfl

@[simp] theorem setSlot_ingress (i : Fin Config.slots) (x : Slot) (k : HostId) : (s.setSlot i x).ingress k = s.ingress k := rfl

@[simp] theorem setSlot_mark (i : Fin Config.slots) (x : Slot) (k : HostId) : (s.setSlot i x).mark k = s.mark k := rfl

@[simp] theorem setSlot_orders (i : Fin Config.slots) (x : Slot) (k : Source) : (s.setSlot i x).orders k = s.orders k := rfl

@[simp] theorem setSlot_link (i : Fin Config.slots) (x : Slot) (k : Port) : (s.setSlot i x).link k = s.link k := rfl

@[simp] theorem setSlot_egress (i : Fin Config.slots) (x : Slot) (k : TargetId) : (s.setSlot i x).egress k = s.egress k := rfl

@[simp] theorem setSlot_returns (i : Fin Config.slots) (x : Slot) (k : Source) : (s.setSlot i x).returns k = s.returns k := rfl

/-! ### setPoolFree -/

@[simp] theorem setPoolFree_ctl (n : Nat) : (s.setPoolFree n).ctl = s.ctl := rfl

@[simp] theorem setPoolFree_dir_slots (n : Nat) : (s.setPoolFree n).dir.slots = s.dir.slots := rfl

@[simp] theorem setPoolFree_dir_poolFree (n : Nat) : (s.setPoolFree n).dir.poolFree = n := rfl

@[simp] theorem setPoolFree_dir_fallback (n : Nat) : (s.setPoolFree n).dir.fallback = s.dir.fallback := rfl

@[simp] theorem setPoolFree_dir_fallbackCount (n : Nat) : (s.setPoolFree n).dir.fallbackCount = s.dir.fallbackCount := rfl

@[simp] theorem setPoolFree_fwd (n : Nat) : (s.setPoolFree n).fwd = s.fwd := rfl

@[simp] theorem setPoolFree_table (n : Nat) : (s.setPoolFree n).table = s.table := rfl

@[simp] theorem setPoolFree_eng (n : Nat) : (s.setPoolFree n).eng = s.eng := rfl

@[simp] theorem setPoolFree_ports (n : Nat) : (s.setPoolFree n).ports = s.ports := rfl

@[simp] theorem setPoolFree_events (n : Nat) : (s.setPoolFree n).events = s.events := rfl

@[simp] theorem setPoolFree_pending (n : Nat) : (s.setPoolFree n).pending = s.pending := rfl

@[simp] theorem setPoolFree_sent (n : Nat) : (s.setPoolFree n).sent = s.sent := rfl

@[simp] theorem setPoolFree_slot (n : Nat) (k : Fin Config.slots) : (s.setPoolFree n).slot k = s.slot k := rfl

@[simp] theorem setPoolFree_entry (n : Nat) (k : Fin Config.replyEntries) : (s.setPoolFree n).entry k = s.entry k := rfl

@[simp] theorem setPoolFree_ingress (n : Nat) (k : HostId) : (s.setPoolFree n).ingress k = s.ingress k := rfl

@[simp] theorem setPoolFree_mark (n : Nat) (k : HostId) : (s.setPoolFree n).mark k = s.mark k := rfl

@[simp] theorem setPoolFree_orders (n : Nat) (k : Source) : (s.setPoolFree n).orders k = s.orders k := rfl

@[simp] theorem setPoolFree_link (n : Nat) (k : Port) : (s.setPoolFree n).link k = s.link k := rfl

@[simp] theorem setPoolFree_egress (n : Nat) (k : TargetId) : (s.setPoolFree n).egress k = s.egress k := rfl

@[simp] theorem setPoolFree_returns (n : Nat) (k : Source) : (s.setPoolFree n).returns k = s.returns k := rfl

/-! ### setFallback -/

@[simp] theorem setFallback_ctl (f : Option TargetId) : (s.setFallback f).ctl = s.ctl := rfl

@[simp] theorem setFallback_dir_slots (f : Option TargetId) : (s.setFallback f).dir.slots = s.dir.slots := rfl

@[simp] theorem setFallback_dir_poolFree (f : Option TargetId) : (s.setFallback f).dir.poolFree = s.dir.poolFree := rfl

@[simp] theorem setFallback_dir_fallback (f : Option TargetId) : (s.setFallback f).dir.fallback = f := rfl

@[simp] theorem setFallback_dir_fallbackCount (f : Option TargetId) : (s.setFallback f).dir.fallbackCount = s.dir.fallbackCount := rfl

@[simp] theorem setFallback_fwd (f : Option TargetId) : (s.setFallback f).fwd = s.fwd := rfl

@[simp] theorem setFallback_table (f : Option TargetId) : (s.setFallback f).table = s.table := rfl

@[simp] theorem setFallback_eng (f : Option TargetId) : (s.setFallback f).eng = s.eng := rfl

@[simp] theorem setFallback_ports (f : Option TargetId) : (s.setFallback f).ports = s.ports := rfl

@[simp] theorem setFallback_events (f : Option TargetId) : (s.setFallback f).events = s.events := rfl

@[simp] theorem setFallback_pending (f : Option TargetId) : (s.setFallback f).pending = s.pending := rfl

@[simp] theorem setFallback_sent (f : Option TargetId) : (s.setFallback f).sent = s.sent := rfl

@[simp] theorem setFallback_slot (f : Option TargetId) (k : Fin Config.slots) : (s.setFallback f).slot k = s.slot k := rfl

@[simp] theorem setFallback_entry (f : Option TargetId) (k : Fin Config.replyEntries) : (s.setFallback f).entry k = s.entry k := rfl

@[simp] theorem setFallback_ingress (f : Option TargetId) (k : HostId) : (s.setFallback f).ingress k = s.ingress k := rfl

@[simp] theorem setFallback_mark (f : Option TargetId) (k : HostId) : (s.setFallback f).mark k = s.mark k := rfl

@[simp] theorem setFallback_orders (f : Option TargetId) (k : Source) : (s.setFallback f).orders k = s.orders k := rfl

@[simp] theorem setFallback_link (f : Option TargetId) (k : Port) : (s.setFallback f).link k = s.link k := rfl

@[simp] theorem setFallback_egress (f : Option TargetId) (k : TargetId) : (s.setFallback f).egress k = s.egress k := rfl

@[simp] theorem setFallback_returns (f : Option TargetId) (k : Source) : (s.setFallback f).returns k = s.returns k := rfl

/-! ### setFallbackCount -/

@[simp] theorem setFallbackCount_ctl (n : Nat) : (s.setFallbackCount n).ctl = s.ctl := rfl

@[simp] theorem setFallbackCount_dir_slots (n : Nat) : (s.setFallbackCount n).dir.slots = s.dir.slots := rfl

@[simp] theorem setFallbackCount_dir_poolFree (n : Nat) : (s.setFallbackCount n).dir.poolFree = s.dir.poolFree := rfl

@[simp] theorem setFallbackCount_dir_fallback (n : Nat) : (s.setFallbackCount n).dir.fallback = s.dir.fallback := rfl

@[simp] theorem setFallbackCount_dir_fallbackCount (n : Nat) : (s.setFallbackCount n).dir.fallbackCount = n := rfl

@[simp] theorem setFallbackCount_fwd (n : Nat) : (s.setFallbackCount n).fwd = s.fwd := rfl

@[simp] theorem setFallbackCount_table (n : Nat) : (s.setFallbackCount n).table = s.table := rfl

@[simp] theorem setFallbackCount_eng (n : Nat) : (s.setFallbackCount n).eng = s.eng := rfl

@[simp] theorem setFallbackCount_ports (n : Nat) : (s.setFallbackCount n).ports = s.ports := rfl

@[simp] theorem setFallbackCount_events (n : Nat) : (s.setFallbackCount n).events = s.events := rfl

@[simp] theorem setFallbackCount_pending (n : Nat) : (s.setFallbackCount n).pending = s.pending := rfl

@[simp] theorem setFallbackCount_sent (n : Nat) : (s.setFallbackCount n).sent = s.sent := rfl

@[simp] theorem setFallbackCount_slot (n : Nat) (k : Fin Config.slots) : (s.setFallbackCount n).slot k = s.slot k := rfl

@[simp] theorem setFallbackCount_entry (n : Nat) (k : Fin Config.replyEntries) : (s.setFallbackCount n).entry k = s.entry k := rfl

@[simp] theorem setFallbackCount_ingress (n : Nat) (k : HostId) : (s.setFallbackCount n).ingress k = s.ingress k := rfl

@[simp] theorem setFallbackCount_mark (n : Nat) (k : HostId) : (s.setFallbackCount n).mark k = s.mark k := rfl

@[simp] theorem setFallbackCount_orders (n : Nat) (k : Source) : (s.setFallbackCount n).orders k = s.orders k := rfl

@[simp] theorem setFallbackCount_link (n : Nat) (k : Port) : (s.setFallbackCount n).link k = s.link k := rfl

@[simp] theorem setFallbackCount_egress (n : Nat) (k : TargetId) : (s.setFallbackCount n).egress k = s.egress k := rfl

@[simp] theorem setFallbackCount_returns (n : Nat) (k : Source) : (s.setFallbackCount n).returns k = s.returns k := rfl

/-! ### setIngress -/

@[simp] theorem setIngress_ctl (h : HostId) (q : List Request) : (s.setIngress h q).ctl = s.ctl := rfl

@[simp] theorem setIngress_dir (h : HostId) (q : List Request) : (s.setIngress h q).dir = s.dir := rfl

@[simp] theorem setIngress_fwd_ingress (h : HostId) (q : List Request) : (s.setIngress h q).fwd.ingress = s.fwd.ingress.set h q := rfl

@[simp] theorem setIngress_fwd_waiting (h : HostId) (q : List Request) : (s.setIngress h q).fwd.waiting = s.fwd.waiting := rfl

@[simp] theorem setIngress_table (h : HostId) (q : List Request) : (s.setIngress h q).table = s.table := rfl

@[simp] theorem setIngress_eng (h : HostId) (q : List Request) : (s.setIngress h q).eng = s.eng := rfl

@[simp] theorem setIngress_ports (h : HostId) (q : List Request) : (s.setIngress h q).ports = s.ports := rfl

@[simp] theorem setIngress_events (h : HostId) (q : List Request) : (s.setIngress h q).events = s.events := rfl

@[simp] theorem setIngress_pending (h : HostId) (q : List Request) : (s.setIngress h q).pending = s.pending := rfl

@[simp] theorem setIngress_sent (h : HostId) (q : List Request) : (s.setIngress h q).sent = s.sent := rfl

@[simp] theorem setIngress_slot (h : HostId) (q : List Request) (k : Fin Config.slots) : (s.setIngress h q).slot k = s.slot k := rfl

@[simp] theorem setIngress_entry (h : HostId) (q : List Request) (k : Fin Config.replyEntries) : (s.setIngress h q).entry k = s.entry k := rfl

@[simp] theorem setIngress_ingress_self (h : HostId) (q : List Request) : (s.setIngress h q).ingress h = q := PerHost.get_set_self _ h q

theorem setIngress_ingress_ne (h : HostId) (q : List Request) {k : HostId} (hne : k ≠ h) : (s.setIngress h q).ingress k = s.ingress k := PerHost.get_set_ne _ q hne

theorem setIngress_ingress (h : HostId) (q : List Request) (k : HostId) : (s.setIngress h q).ingress k = if k = h then q else s.ingress k := PerHost.get_set _ h k q

@[simp] theorem setIngress_mark (h : HostId) (q : List Request) (k : HostId) : (s.setIngress h q).mark k = s.mark k := rfl

@[simp] theorem setIngress_orders (h : HostId) (q : List Request) (k : Source) : (s.setIngress h q).orders k = s.orders k := rfl

@[simp] theorem setIngress_link (h : HostId) (q : List Request) (k : Port) : (s.setIngress h q).link k = s.link k := rfl

@[simp] theorem setIngress_egress (h : HostId) (q : List Request) (k : TargetId) : (s.setIngress h q).egress k = s.egress k := rfl

@[simp] theorem setIngress_returns (h : HostId) (q : List Request) (k : Source) : (s.setIngress h q).returns k = s.returns k := rfl

/-! ### setMark -/

@[simp] theorem setMark_ctl (h : HostId) (m : WaitMark) : (s.setMark h m).ctl = s.ctl := rfl

@[simp] theorem setMark_dir (h : HostId) (m : WaitMark) : (s.setMark h m).dir = s.dir := rfl

@[simp] theorem setMark_fwd_ingress (h : HostId) (m : WaitMark) : (s.setMark h m).fwd.ingress = s.fwd.ingress := rfl

@[simp] theorem setMark_fwd_waiting (h : HostId) (m : WaitMark) : (s.setMark h m).fwd.waiting = s.fwd.waiting.set h m := rfl

@[simp] theorem setMark_table (h : HostId) (m : WaitMark) : (s.setMark h m).table = s.table := rfl

@[simp] theorem setMark_eng (h : HostId) (m : WaitMark) : (s.setMark h m).eng = s.eng := rfl

@[simp] theorem setMark_ports (h : HostId) (m : WaitMark) : (s.setMark h m).ports = s.ports := rfl

@[simp] theorem setMark_events (h : HostId) (m : WaitMark) : (s.setMark h m).events = s.events := rfl

@[simp] theorem setMark_pending (h : HostId) (m : WaitMark) : (s.setMark h m).pending = s.pending := rfl

@[simp] theorem setMark_sent (h : HostId) (m : WaitMark) : (s.setMark h m).sent = s.sent := rfl

@[simp] theorem setMark_slot (h : HostId) (m : WaitMark) (k : Fin Config.slots) : (s.setMark h m).slot k = s.slot k := rfl

@[simp] theorem setMark_entry (h : HostId) (m : WaitMark) (k : Fin Config.replyEntries) : (s.setMark h m).entry k = s.entry k := rfl

@[simp] theorem setMark_ingress (h : HostId) (m : WaitMark) (k : HostId) : (s.setMark h m).ingress k = s.ingress k := rfl

@[simp] theorem setMark_mark_self (h : HostId) (m : WaitMark) : (s.setMark h m).mark h = m := PerHost.get_set_self _ h m

theorem setMark_mark_ne (h : HostId) (m : WaitMark) {k : HostId} (hne : k ≠ h) : (s.setMark h m).mark k = s.mark k := PerHost.get_set_ne _ m hne

theorem setMark_mark (h : HostId) (m : WaitMark) (k : HostId) : (s.setMark h m).mark k = if k = h then m else s.mark k := PerHost.get_set _ h k m

@[simp] theorem setMark_orders (h : HostId) (m : WaitMark) (k : Source) : (s.setMark h m).orders k = s.orders k := rfl

@[simp] theorem setMark_link (h : HostId) (m : WaitMark) (k : Port) : (s.setMark h m).link k = s.link k := rfl

@[simp] theorem setMark_egress (h : HostId) (m : WaitMark) (k : TargetId) : (s.setMark h m).egress k = s.egress k := rfl

@[simp] theorem setMark_returns (h : HostId) (m : WaitMark) (k : Source) : (s.setMark h m).returns k = s.returns k := rfl

/-! ### setEntry -/

@[simp] theorem setEntry_ctl (i : Fin Config.replyEntries) (e : Entry) : (s.setEntry i e).ctl = s.ctl := rfl

@[simp] theorem setEntry_dir (i : Fin Config.replyEntries) (e : Entry) : (s.setEntry i e).dir = s.dir := rfl

@[simp] theorem setEntry_fwd (i : Fin Config.replyEntries) (e : Entry) : (s.setEntry i e).fwd = s.fwd := rfl

@[simp] theorem setEntry_table_entries (i : Fin Config.replyEntries) (e : Entry) : (s.setEntry i e).table.entries = s.table.entries.set i.val e i.isLt := rfl

@[simp] theorem setEntry_table_position (i : Fin Config.replyEntries) (e : Entry) : (s.setEntry i e).table.position = s.table.position := rfl

@[simp] theorem setEntry_eng (i : Fin Config.replyEntries) (e : Entry) : (s.setEntry i e).eng = s.eng := rfl

@[simp] theorem setEntry_ports (i : Fin Config.replyEntries) (e : Entry) : (s.setEntry i e).ports = s.ports := rfl

@[simp] theorem setEntry_events (i : Fin Config.replyEntries) (e : Entry) : (s.setEntry i e).events = s.events := rfl

@[simp] theorem setEntry_pending (i : Fin Config.replyEntries) (e : Entry) : (s.setEntry i e).pending = s.pending := rfl

@[simp] theorem setEntry_sent (i : Fin Config.replyEntries) (e : Entry) : (s.setEntry i e).sent = s.sent := rfl

@[simp] theorem setEntry_slot (i : Fin Config.replyEntries) (e : Entry) (k : Fin Config.slots) : (s.setEntry i e).slot k = s.slot k := rfl

@[simp] theorem setEntry_entry_self (i : Fin Config.replyEntries) (e : Entry) : (s.setEntry i e).entry i = e :=
  Vector.getElem_set_self i.isLt

theorem setEntry_entry_ne (i : Fin Config.replyEntries) (e : Entry) {k : Fin Config.replyEntries} (hne : k ≠ i) : (s.setEntry i e).entry k = s.entry k :=
  Vector.getElem_set_ne i.isLt k.isLt fun e => hne (Fin.ext e.symm)

theorem setEntry_entry (i : Fin Config.replyEntries) (e : Entry) (k : Fin Config.replyEntries) : (s.setEntry i e).entry k = if k = i then e else s.entry k := by
  split
  · next hk => rw [hk, setEntry_entry_self]
  · next hk => exact setEntry_entry_ne s i e hk

@[simp] theorem setEntry_ingress (i : Fin Config.replyEntries) (e : Entry) (k : HostId) : (s.setEntry i e).ingress k = s.ingress k := rfl

@[simp] theorem setEntry_mark (i : Fin Config.replyEntries) (e : Entry) (k : HostId) : (s.setEntry i e).mark k = s.mark k := rfl

@[simp] theorem setEntry_orders (i : Fin Config.replyEntries) (e : Entry) (k : Source) : (s.setEntry i e).orders k = s.orders k := rfl

@[simp] theorem setEntry_link (i : Fin Config.replyEntries) (e : Entry) (k : Port) : (s.setEntry i e).link k = s.link k := rfl

@[simp] theorem setEntry_egress (i : Fin Config.replyEntries) (e : Entry) (k : TargetId) : (s.setEntry i e).egress k = s.egress k := rfl

@[simp] theorem setEntry_returns (i : Fin Config.replyEntries) (e : Entry) (k : Source) : (s.setEntry i e).returns k = s.returns k := rfl

/-! ### setEntryPosition -/

@[simp] theorem setEntryPosition_ctl (h : HostId) : (s.setEntryPosition h).ctl = s.ctl := rfl

@[simp] theorem setEntryPosition_dir (h : HostId) : (s.setEntryPosition h).dir = s.dir := rfl

@[simp] theorem setEntryPosition_fwd (h : HostId) : (s.setEntryPosition h).fwd = s.fwd := rfl

@[simp] theorem setEntryPosition_table_entries (h : HostId) : (s.setEntryPosition h).table.entries = s.table.entries := rfl

@[simp] theorem setEntryPosition_table_position (h : HostId) : (s.setEntryPosition h).table.position = h := rfl

@[simp] theorem setEntryPosition_eng (h : HostId) : (s.setEntryPosition h).eng = s.eng := rfl

@[simp] theorem setEntryPosition_ports (h : HostId) : (s.setEntryPosition h).ports = s.ports := rfl

@[simp] theorem setEntryPosition_events (h : HostId) : (s.setEntryPosition h).events = s.events := rfl

@[simp] theorem setEntryPosition_pending (h : HostId) : (s.setEntryPosition h).pending = s.pending := rfl

@[simp] theorem setEntryPosition_sent (h : HostId) : (s.setEntryPosition h).sent = s.sent := rfl

@[simp] theorem setEntryPosition_slot (h : HostId) (k : Fin Config.slots) : (s.setEntryPosition h).slot k = s.slot k := rfl

@[simp] theorem setEntryPosition_entry (h : HostId) (k : Fin Config.replyEntries) : (s.setEntryPosition h).entry k = s.entry k := rfl

@[simp] theorem setEntryPosition_ingress (h : HostId) (k : HostId) : (s.setEntryPosition h).ingress k = s.ingress k := rfl

@[simp] theorem setEntryPosition_mark (h : HostId) (k : HostId) : (s.setEntryPosition h).mark k = s.mark k := rfl

@[simp] theorem setEntryPosition_orders (h : HostId) (k : Source) : (s.setEntryPosition h).orders k = s.orders k := rfl

@[simp] theorem setEntryPosition_link (h : HostId) (k : Port) : (s.setEntryPosition h).link k = s.link k := rfl

@[simp] theorem setEntryPosition_egress (h : HostId) (k : TargetId) : (s.setEntryPosition h).egress k = s.egress k := rfl

@[simp] theorem setEntryPosition_returns (h : HostId) (k : Source) : (s.setEntryPosition h).returns k = s.returns k := rfl

/-! ### setOrders -/

@[simp] theorem setOrders_ctl (src : Source) (q : List OrderEntry) : (s.setOrders src q).ctl = s.ctl := rfl

@[simp] theorem setOrders_dir (src : Source) (q : List OrderEntry) : (s.setOrders src q).dir = s.dir := rfl

@[simp] theorem setOrders_fwd (src : Source) (q : List OrderEntry) : (s.setOrders src q).fwd = s.fwd := rfl

@[simp] theorem setOrders_table (src : Source) (q : List OrderEntry) : (s.setOrders src q).table = s.table := rfl

@[simp] theorem setOrders_eng_orders (src : Source) (q : List OrderEntry) : (s.setOrders src q).eng.orders = s.eng.orders.set src q := rfl

@[simp] theorem setOrders_eng_position (src : Source) (q : List OrderEntry) : (s.setOrders src q).eng.position = s.eng.position := rfl

@[simp] theorem setOrders_eng_drains (src : Source) (q : List OrderEntry) : (s.setOrders src q).eng.drains = s.eng.drains := rfl

@[simp] theorem setOrders_eng_rights (src : Source) (q : List OrderEntry) : (s.setOrders src q).eng.rights = s.eng.rights := rfl

@[simp] theorem setOrders_eng_allotment (src : Source) (q : List OrderEntry) : (s.setOrders src q).eng.allotment = s.eng.allotment := rfl

@[simp] theorem setOrders_eng_frozen (src : Source) (q : List OrderEntry) : (s.setOrders src q).eng.frozen = s.eng.frozen := rfl

@[simp] theorem setOrders_eng_replyLimit (src : Source) (q : List OrderEntry) : (s.setOrders src q).eng.replyLimit = s.eng.replyLimit := rfl

@[simp] theorem setOrders_eng_drainLimit (src : Source) (q : List OrderEntry) : (s.setOrders src q).eng.drainLimit = s.eng.drainLimit := rfl

@[simp] theorem setOrders_ports (src : Source) (q : List OrderEntry) : (s.setOrders src q).ports = s.ports := rfl

@[simp] theorem setOrders_events (src : Source) (q : List OrderEntry) : (s.setOrders src q).events = s.events := rfl

@[simp] theorem setOrders_pending (src : Source) (q : List OrderEntry) : (s.setOrders src q).pending = s.pending := rfl

@[simp] theorem setOrders_sent (src : Source) (q : List OrderEntry) : (s.setOrders src q).sent = s.sent := rfl

@[simp] theorem setOrders_slot (src : Source) (q : List OrderEntry) (k : Fin Config.slots) : (s.setOrders src q).slot k = s.slot k := rfl

@[simp] theorem setOrders_entry (src : Source) (q : List OrderEntry) (k : Fin Config.replyEntries) : (s.setOrders src q).entry k = s.entry k := rfl

@[simp] theorem setOrders_ingress (src : Source) (q : List OrderEntry) (k : HostId) : (s.setOrders src q).ingress k = s.ingress k := rfl

@[simp] theorem setOrders_mark (src : Source) (q : List OrderEntry) (k : HostId) : (s.setOrders src q).mark k = s.mark k := rfl

@[simp] theorem setOrders_orders_self (src : Source) (q : List OrderEntry) : (s.setOrders src q).orders src = q := PerSource.get_set_self _ src q

theorem setOrders_orders_ne (src : Source) (q : List OrderEntry) {k : Source} (hne : k ≠ src) : (s.setOrders src q).orders k = s.orders k := PerSource.get_set_ne _ q hne

theorem setOrders_orders (src : Source) (q : List OrderEntry) (k : Source) : (s.setOrders src q).orders k = if k = src then q else s.orders k := PerSource.get_set _ src k q

@[simp] theorem setOrders_link (src : Source) (q : List OrderEntry) (k : Port) : (s.setOrders src q).link k = s.link k := rfl

@[simp] theorem setOrders_egress (src : Source) (q : List OrderEntry) (k : TargetId) : (s.setOrders src q).egress k = s.egress k := rfl

@[simp] theorem setOrders_returns (src : Source) (q : List OrderEntry) (k : Source) : (s.setOrders src q).returns k = s.returns k := rfl

/-! ### setArbiter -/

@[simp] theorem setArbiter_ctl (src : Source) : (s.setArbiter src).ctl = s.ctl := rfl

@[simp] theorem setArbiter_dir (src : Source) : (s.setArbiter src).dir = s.dir := rfl

@[simp] theorem setArbiter_fwd (src : Source) : (s.setArbiter src).fwd = s.fwd := rfl

@[simp] theorem setArbiter_table (src : Source) : (s.setArbiter src).table = s.table := rfl

@[simp] theorem setArbiter_eng_orders (src : Source) : (s.setArbiter src).eng.orders = s.eng.orders := rfl

@[simp] theorem setArbiter_eng_position (src : Source) : (s.setArbiter src).eng.position = src := rfl

@[simp] theorem setArbiter_eng_drains (src : Source) : (s.setArbiter src).eng.drains = s.eng.drains := rfl

@[simp] theorem setArbiter_eng_rights (src : Source) : (s.setArbiter src).eng.rights = s.eng.rights := rfl

@[simp] theorem setArbiter_eng_allotment (src : Source) : (s.setArbiter src).eng.allotment = s.eng.allotment := rfl

@[simp] theorem setArbiter_eng_frozen (src : Source) : (s.setArbiter src).eng.frozen = s.eng.frozen := rfl

@[simp] theorem setArbiter_eng_replyLimit (src : Source) : (s.setArbiter src).eng.replyLimit = s.eng.replyLimit := rfl

@[simp] theorem setArbiter_eng_drainLimit (src : Source) : (s.setArbiter src).eng.drainLimit = s.eng.drainLimit := rfl

@[simp] theorem setArbiter_ports (src : Source) : (s.setArbiter src).ports = s.ports := rfl

@[simp] theorem setArbiter_events (src : Source) : (s.setArbiter src).events = s.events := rfl

@[simp] theorem setArbiter_pending (src : Source) : (s.setArbiter src).pending = s.pending := rfl

@[simp] theorem setArbiter_sent (src : Source) : (s.setArbiter src).sent = s.sent := rfl

@[simp] theorem setArbiter_slot (src : Source) (k : Fin Config.slots) : (s.setArbiter src).slot k = s.slot k := rfl

@[simp] theorem setArbiter_entry (src : Source) (k : Fin Config.replyEntries) : (s.setArbiter src).entry k = s.entry k := rfl

@[simp] theorem setArbiter_ingress (src : Source) (k : HostId) : (s.setArbiter src).ingress k = s.ingress k := rfl

@[simp] theorem setArbiter_mark (src : Source) (k : HostId) : (s.setArbiter src).mark k = s.mark k := rfl

@[simp] theorem setArbiter_orders (src : Source) (k : Source) : (s.setArbiter src).orders k = s.orders k := rfl

@[simp] theorem setArbiter_link (src : Source) (k : Port) : (s.setArbiter src).link k = s.link k := rfl

@[simp] theorem setArbiter_egress (src : Source) (k : TargetId) : (s.setArbiter src).egress k = s.egress k := rfl

@[simp] theorem setArbiter_returns (src : Source) (k : Source) : (s.setArbiter src).returns k = s.returns k := rfl

/-! ### setDrains -/

@[simp] theorem setDrains_ctl (js : List DrainJob) : (s.setDrains js).ctl = s.ctl := rfl

@[simp] theorem setDrains_dir (js : List DrainJob) : (s.setDrains js).dir = s.dir := rfl

@[simp] theorem setDrains_fwd (js : List DrainJob) : (s.setDrains js).fwd = s.fwd := rfl

@[simp] theorem setDrains_table (js : List DrainJob) : (s.setDrains js).table = s.table := rfl

@[simp] theorem setDrains_eng_orders (js : List DrainJob) : (s.setDrains js).eng.orders = s.eng.orders := rfl

@[simp] theorem setDrains_eng_position (js : List DrainJob) : (s.setDrains js).eng.position = s.eng.position := rfl

@[simp] theorem setDrains_eng_drains (js : List DrainJob) : (s.setDrains js).eng.drains = js := rfl

@[simp] theorem setDrains_eng_rights (js : List DrainJob) : (s.setDrains js).eng.rights = s.eng.rights := rfl

@[simp] theorem setDrains_eng_allotment (js : List DrainJob) : (s.setDrains js).eng.allotment = s.eng.allotment := rfl

@[simp] theorem setDrains_eng_frozen (js : List DrainJob) : (s.setDrains js).eng.frozen = s.eng.frozen := rfl

@[simp] theorem setDrains_eng_replyLimit (js : List DrainJob) : (s.setDrains js).eng.replyLimit = s.eng.replyLimit := rfl

@[simp] theorem setDrains_eng_drainLimit (js : List DrainJob) : (s.setDrains js).eng.drainLimit = s.eng.drainLimit := rfl

@[simp] theorem setDrains_ports (js : List DrainJob) : (s.setDrains js).ports = s.ports := rfl

@[simp] theorem setDrains_events (js : List DrainJob) : (s.setDrains js).events = s.events := rfl

@[simp] theorem setDrains_pending (js : List DrainJob) : (s.setDrains js).pending = s.pending := rfl

@[simp] theorem setDrains_sent (js : List DrainJob) : (s.setDrains js).sent = s.sent := rfl

@[simp] theorem setDrains_slot (js : List DrainJob) (k : Fin Config.slots) : (s.setDrains js).slot k = s.slot k := rfl

@[simp] theorem setDrains_entry (js : List DrainJob) (k : Fin Config.replyEntries) : (s.setDrains js).entry k = s.entry k := rfl

@[simp] theorem setDrains_ingress (js : List DrainJob) (k : HostId) : (s.setDrains js).ingress k = s.ingress k := rfl

@[simp] theorem setDrains_mark (js : List DrainJob) (k : HostId) : (s.setDrains js).mark k = s.mark k := rfl

@[simp] theorem setDrains_orders (js : List DrainJob) (k : Source) : (s.setDrains js).orders k = s.orders k := rfl

@[simp] theorem setDrains_link (js : List DrainJob) (k : Port) : (s.setDrains js).link k = s.link k := rfl

@[simp] theorem setDrains_egress (js : List DrainJob) (k : TargetId) : (s.setDrains js).egress k = s.egress k := rfl

@[simp] theorem setDrains_returns (js : List DrainJob) (k : Source) : (s.setDrains js).returns k = s.returns k := rfl

/-! ### setLink -/

@[simp] theorem setLink_ctl (p : Port) (l : LinkState) : (s.setLink p l).ctl = s.ctl := rfl

@[simp] theorem setLink_dir (p : Port) (l : LinkState) : (s.setLink p l).dir = s.dir := rfl

@[simp] theorem setLink_fwd (p : Port) (l : LinkState) : (s.setLink p l).fwd = s.fwd := rfl

@[simp] theorem setLink_table (p : Port) (l : LinkState) : (s.setLink p l).table = s.table := rfl

@[simp] theorem setLink_eng (p : Port) (l : LinkState) : (s.setLink p l).eng = s.eng := rfl

@[simp] theorem setLink_ports_link (p : Port) (l : LinkState) : (s.setLink p l).ports.link = s.ports.link.set p l := rfl

@[simp] theorem setLink_ports_held (p : Port) (l : LinkState) : (s.setLink p l).ports.held = s.ports.held := rfl

@[simp] theorem setLink_ports_grantedRequest (p : Port) (l : LinkState) : (s.setLink p l).ports.grantedRequest = s.ports.grantedRequest := rfl

@[simp] theorem setLink_ports_grantedOrder (p : Port) (l : LinkState) : (s.setLink p l).ports.grantedOrder = s.ports.grantedOrder := rfl

@[simp] theorem setLink_ports_session (p : Port) (l : LinkState) : (s.setLink p l).ports.session = s.ports.session := rfl

@[simp] theorem setLink_ports_barredHost (p : Port) (l : LinkState) : (s.setLink p l).ports.barredHost = s.ports.barredHost := rfl

@[simp] theorem setLink_ports_barredTarget (p : Port) (l : LinkState) : (s.setLink p l).ports.barredTarget = s.ports.barredTarget := rfl

@[simp] theorem setLink_ports_egress (p : Port) (l : LinkState) : (s.setLink p l).ports.egress = s.ports.egress := rfl

@[simp] theorem setLink_ports_egressPosition (p : Port) (l : LinkState) : (s.setLink p l).ports.egressPosition = s.ports.egressPosition := rfl

@[simp] theorem setLink_ports_returns (p : Port) (l : LinkState) : (s.setLink p l).ports.returns = s.ports.returns := rfl

@[simp] theorem setLink_events (p : Port) (l : LinkState) : (s.setLink p l).events = s.events := rfl

@[simp] theorem setLink_pending (p : Port) (l : LinkState) : (s.setLink p l).pending = s.pending := rfl

@[simp] theorem setLink_sent (p : Port) (l : LinkState) : (s.setLink p l).sent = s.sent := rfl

@[simp] theorem setLink_slot (p : Port) (l : LinkState) (k : Fin Config.slots) : (s.setLink p l).slot k = s.slot k := rfl

@[simp] theorem setLink_entry (p : Port) (l : LinkState) (k : Fin Config.replyEntries) : (s.setLink p l).entry k = s.entry k := rfl

@[simp] theorem setLink_ingress (p : Port) (l : LinkState) (k : HostId) : (s.setLink p l).ingress k = s.ingress k := rfl

@[simp] theorem setLink_mark (p : Port) (l : LinkState) (k : HostId) : (s.setLink p l).mark k = s.mark k := rfl

@[simp] theorem setLink_orders (p : Port) (l : LinkState) (k : Source) : (s.setLink p l).orders k = s.orders k := rfl

@[simp] theorem setLink_link_self (p : Port) (l : LinkState) : (s.setLink p l).link p = l := PerPort.get_set_self _ p l

theorem setLink_link_ne (p : Port) (l : LinkState) {k : Port} (hne : k ≠ p) : (s.setLink p l).link k = s.link k := PerPort.get_set_ne _ l hne

theorem setLink_link (p : Port) (l : LinkState) (k : Port) : (s.setLink p l).link k = if k = p then l else s.link k := PerPort.get_set _ p k l

@[simp] theorem setLink_egress (p : Port) (l : LinkState) (k : TargetId) : (s.setLink p l).egress k = s.egress k := rfl

@[simp] theorem setLink_returns (p : Port) (l : LinkState) (k : Source) : (s.setLink p l).returns k = s.returns k := rfl

/-! ### setHeld -/

@[simp] theorem setHeld_ctl (p : Port) (n : Nat) : (s.setHeld p n).ctl = s.ctl := rfl

@[simp] theorem setHeld_dir (p : Port) (n : Nat) : (s.setHeld p n).dir = s.dir := rfl

@[simp] theorem setHeld_fwd (p : Port) (n : Nat) : (s.setHeld p n).fwd = s.fwd := rfl

@[simp] theorem setHeld_table (p : Port) (n : Nat) : (s.setHeld p n).table = s.table := rfl

@[simp] theorem setHeld_eng (p : Port) (n : Nat) : (s.setHeld p n).eng = s.eng := rfl

@[simp] theorem setHeld_ports_link (p : Port) (n : Nat) : (s.setHeld p n).ports.link = s.ports.link := rfl

@[simp] theorem setHeld_ports_held (p : Port) (n : Nat) : (s.setHeld p n).ports.held = s.ports.held.set p n := rfl

@[simp] theorem setHeld_ports_grantedRequest (p : Port) (n : Nat) : (s.setHeld p n).ports.grantedRequest = s.ports.grantedRequest := rfl

@[simp] theorem setHeld_ports_grantedOrder (p : Port) (n : Nat) : (s.setHeld p n).ports.grantedOrder = s.ports.grantedOrder := rfl

@[simp] theorem setHeld_ports_session (p : Port) (n : Nat) : (s.setHeld p n).ports.session = s.ports.session := rfl

@[simp] theorem setHeld_ports_barredHost (p : Port) (n : Nat) : (s.setHeld p n).ports.barredHost = s.ports.barredHost := rfl

@[simp] theorem setHeld_ports_barredTarget (p : Port) (n : Nat) : (s.setHeld p n).ports.barredTarget = s.ports.barredTarget := rfl

@[simp] theorem setHeld_ports_egress (p : Port) (n : Nat) : (s.setHeld p n).ports.egress = s.ports.egress := rfl

@[simp] theorem setHeld_ports_egressPosition (p : Port) (n : Nat) : (s.setHeld p n).ports.egressPosition = s.ports.egressPosition := rfl

@[simp] theorem setHeld_ports_returns (p : Port) (n : Nat) : (s.setHeld p n).ports.returns = s.ports.returns := rfl

@[simp] theorem setHeld_events (p : Port) (n : Nat) : (s.setHeld p n).events = s.events := rfl

@[simp] theorem setHeld_pending (p : Port) (n : Nat) : (s.setHeld p n).pending = s.pending := rfl

@[simp] theorem setHeld_sent (p : Port) (n : Nat) : (s.setHeld p n).sent = s.sent := rfl

@[simp] theorem setHeld_slot (p : Port) (n : Nat) (k : Fin Config.slots) : (s.setHeld p n).slot k = s.slot k := rfl

@[simp] theorem setHeld_entry (p : Port) (n : Nat) (k : Fin Config.replyEntries) : (s.setHeld p n).entry k = s.entry k := rfl

@[simp] theorem setHeld_ingress (p : Port) (n : Nat) (k : HostId) : (s.setHeld p n).ingress k = s.ingress k := rfl

@[simp] theorem setHeld_mark (p : Port) (n : Nat) (k : HostId) : (s.setHeld p n).mark k = s.mark k := rfl

@[simp] theorem setHeld_orders (p : Port) (n : Nat) (k : Source) : (s.setHeld p n).orders k = s.orders k := rfl

@[simp] theorem setHeld_link (p : Port) (n : Nat) (k : Port) : (s.setHeld p n).link k = s.link k := rfl

@[simp] theorem setHeld_egress (p : Port) (n : Nat) (k : TargetId) : (s.setHeld p n).egress k = s.egress k := rfl

@[simp] theorem setHeld_returns (p : Port) (n : Nat) (k : Source) : (s.setHeld p n).returns k = s.returns k := rfl

/-! ### setGrantedRequest -/

@[simp] theorem setGrantedRequest_ctl (h : HostId) (n : Nat) : (s.setGrantedRequest h n).ctl = s.ctl := rfl

@[simp] theorem setGrantedRequest_dir (h : HostId) (n : Nat) : (s.setGrantedRequest h n).dir = s.dir := rfl

@[simp] theorem setGrantedRequest_fwd (h : HostId) (n : Nat) : (s.setGrantedRequest h n).fwd = s.fwd := rfl

@[simp] theorem setGrantedRequest_table (h : HostId) (n : Nat) : (s.setGrantedRequest h n).table = s.table := rfl

@[simp] theorem setGrantedRequest_eng (h : HostId) (n : Nat) : (s.setGrantedRequest h n).eng = s.eng := rfl

@[simp] theorem setGrantedRequest_ports_link (h : HostId) (n : Nat) : (s.setGrantedRequest h n).ports.link = s.ports.link := rfl

@[simp] theorem setGrantedRequest_ports_held (h : HostId) (n : Nat) : (s.setGrantedRequest h n).ports.held = s.ports.held := rfl

@[simp] theorem setGrantedRequest_ports_grantedRequest (h : HostId) (n : Nat) : (s.setGrantedRequest h n).ports.grantedRequest = s.ports.grantedRequest.set h n := rfl

@[simp] theorem setGrantedRequest_ports_grantedOrder (h : HostId) (n : Nat) : (s.setGrantedRequest h n).ports.grantedOrder = s.ports.grantedOrder := rfl

@[simp] theorem setGrantedRequest_ports_session (h : HostId) (n : Nat) : (s.setGrantedRequest h n).ports.session = s.ports.session := rfl

@[simp] theorem setGrantedRequest_ports_barredHost (h : HostId) (n : Nat) : (s.setGrantedRequest h n).ports.barredHost = s.ports.barredHost := rfl

@[simp] theorem setGrantedRequest_ports_barredTarget (h : HostId) (n : Nat) : (s.setGrantedRequest h n).ports.barredTarget = s.ports.barredTarget := rfl

@[simp] theorem setGrantedRequest_ports_egress (h : HostId) (n : Nat) : (s.setGrantedRequest h n).ports.egress = s.ports.egress := rfl

@[simp] theorem setGrantedRequest_ports_egressPosition (h : HostId) (n : Nat) : (s.setGrantedRequest h n).ports.egressPosition = s.ports.egressPosition := rfl

@[simp] theorem setGrantedRequest_ports_returns (h : HostId) (n : Nat) : (s.setGrantedRequest h n).ports.returns = s.ports.returns := rfl

@[simp] theorem setGrantedRequest_events (h : HostId) (n : Nat) : (s.setGrantedRequest h n).events = s.events := rfl

@[simp] theorem setGrantedRequest_pending (h : HostId) (n : Nat) : (s.setGrantedRequest h n).pending = s.pending := rfl

@[simp] theorem setGrantedRequest_sent (h : HostId) (n : Nat) : (s.setGrantedRequest h n).sent = s.sent := rfl

@[simp] theorem setGrantedRequest_slot (h : HostId) (n : Nat) (k : Fin Config.slots) : (s.setGrantedRequest h n).slot k = s.slot k := rfl

@[simp] theorem setGrantedRequest_entry (h : HostId) (n : Nat) (k : Fin Config.replyEntries) : (s.setGrantedRequest h n).entry k = s.entry k := rfl

@[simp] theorem setGrantedRequest_ingress (h : HostId) (n : Nat) (k : HostId) : (s.setGrantedRequest h n).ingress k = s.ingress k := rfl

@[simp] theorem setGrantedRequest_mark (h : HostId) (n : Nat) (k : HostId) : (s.setGrantedRequest h n).mark k = s.mark k := rfl

@[simp] theorem setGrantedRequest_orders (h : HostId) (n : Nat) (k : Source) : (s.setGrantedRequest h n).orders k = s.orders k := rfl

@[simp] theorem setGrantedRequest_link (h : HostId) (n : Nat) (k : Port) : (s.setGrantedRequest h n).link k = s.link k := rfl

@[simp] theorem setGrantedRequest_egress (h : HostId) (n : Nat) (k : TargetId) : (s.setGrantedRequest h n).egress k = s.egress k := rfl

@[simp] theorem setGrantedRequest_returns (h : HostId) (n : Nat) (k : Source) : (s.setGrantedRequest h n).returns k = s.returns k := rfl

/-! ### setGrantedOrder -/

@[simp] theorem setGrantedOrder_ctl (src : Source) (n : Nat) : (s.setGrantedOrder src n).ctl = s.ctl := rfl

@[simp] theorem setGrantedOrder_dir (src : Source) (n : Nat) : (s.setGrantedOrder src n).dir = s.dir := rfl

@[simp] theorem setGrantedOrder_fwd (src : Source) (n : Nat) : (s.setGrantedOrder src n).fwd = s.fwd := rfl

@[simp] theorem setGrantedOrder_table (src : Source) (n : Nat) : (s.setGrantedOrder src n).table = s.table := rfl

@[simp] theorem setGrantedOrder_eng (src : Source) (n : Nat) : (s.setGrantedOrder src n).eng = s.eng := rfl

@[simp] theorem setGrantedOrder_ports_link (src : Source) (n : Nat) : (s.setGrantedOrder src n).ports.link = s.ports.link := rfl

@[simp] theorem setGrantedOrder_ports_held (src : Source) (n : Nat) : (s.setGrantedOrder src n).ports.held = s.ports.held := rfl

@[simp] theorem setGrantedOrder_ports_grantedRequest (src : Source) (n : Nat) : (s.setGrantedOrder src n).ports.grantedRequest = s.ports.grantedRequest := rfl

@[simp] theorem setGrantedOrder_ports_grantedOrder (src : Source) (n : Nat) : (s.setGrantedOrder src n).ports.grantedOrder = s.ports.grantedOrder.set src n := rfl

@[simp] theorem setGrantedOrder_ports_session (src : Source) (n : Nat) : (s.setGrantedOrder src n).ports.session = s.ports.session := rfl

@[simp] theorem setGrantedOrder_ports_barredHost (src : Source) (n : Nat) : (s.setGrantedOrder src n).ports.barredHost = s.ports.barredHost := rfl

@[simp] theorem setGrantedOrder_ports_barredTarget (src : Source) (n : Nat) : (s.setGrantedOrder src n).ports.barredTarget = s.ports.barredTarget := rfl

@[simp] theorem setGrantedOrder_ports_egress (src : Source) (n : Nat) : (s.setGrantedOrder src n).ports.egress = s.ports.egress := rfl

@[simp] theorem setGrantedOrder_ports_egressPosition (src : Source) (n : Nat) : (s.setGrantedOrder src n).ports.egressPosition = s.ports.egressPosition := rfl

@[simp] theorem setGrantedOrder_ports_returns (src : Source) (n : Nat) : (s.setGrantedOrder src n).ports.returns = s.ports.returns := rfl

@[simp] theorem setGrantedOrder_events (src : Source) (n : Nat) : (s.setGrantedOrder src n).events = s.events := rfl

@[simp] theorem setGrantedOrder_pending (src : Source) (n : Nat) : (s.setGrantedOrder src n).pending = s.pending := rfl

@[simp] theorem setGrantedOrder_sent (src : Source) (n : Nat) : (s.setGrantedOrder src n).sent = s.sent := rfl

@[simp] theorem setGrantedOrder_slot (src : Source) (n : Nat) (k : Fin Config.slots) : (s.setGrantedOrder src n).slot k = s.slot k := rfl

@[simp] theorem setGrantedOrder_entry (src : Source) (n : Nat) (k : Fin Config.replyEntries) : (s.setGrantedOrder src n).entry k = s.entry k := rfl

@[simp] theorem setGrantedOrder_ingress (src : Source) (n : Nat) (k : HostId) : (s.setGrantedOrder src n).ingress k = s.ingress k := rfl

@[simp] theorem setGrantedOrder_mark (src : Source) (n : Nat) (k : HostId) : (s.setGrantedOrder src n).mark k = s.mark k := rfl

@[simp] theorem setGrantedOrder_orders (src : Source) (n : Nat) (k : Source) : (s.setGrantedOrder src n).orders k = s.orders k := rfl

@[simp] theorem setGrantedOrder_link (src : Source) (n : Nat) (k : Port) : (s.setGrantedOrder src n).link k = s.link k := rfl

@[simp] theorem setGrantedOrder_egress (src : Source) (n : Nat) (k : TargetId) : (s.setGrantedOrder src n).egress k = s.egress k := rfl

@[simp] theorem setGrantedOrder_returns (src : Source) (n : Nat) (k : Source) : (s.setGrantedOrder src n).returns k = s.returns k := rfl

/-! ### setSession -/

@[simp] theorem setSession_ctl (h : HostId) (n : BitVec 8) : (s.setSession h n).ctl = s.ctl := rfl

@[simp] theorem setSession_dir (h : HostId) (n : BitVec 8) : (s.setSession h n).dir = s.dir := rfl

@[simp] theorem setSession_fwd (h : HostId) (n : BitVec 8) : (s.setSession h n).fwd = s.fwd := rfl

@[simp] theorem setSession_table (h : HostId) (n : BitVec 8) : (s.setSession h n).table = s.table := rfl

@[simp] theorem setSession_eng (h : HostId) (n : BitVec 8) : (s.setSession h n).eng = s.eng := rfl

@[simp] theorem setSession_ports_link (h : HostId) (n : BitVec 8) : (s.setSession h n).ports.link = s.ports.link := rfl

@[simp] theorem setSession_ports_held (h : HostId) (n : BitVec 8) : (s.setSession h n).ports.held = s.ports.held := rfl

@[simp] theorem setSession_ports_grantedRequest (h : HostId) (n : BitVec 8) : (s.setSession h n).ports.grantedRequest = s.ports.grantedRequest := rfl

@[simp] theorem setSession_ports_grantedOrder (h : HostId) (n : BitVec 8) : (s.setSession h n).ports.grantedOrder = s.ports.grantedOrder := rfl

@[simp] theorem setSession_ports_session (h : HostId) (n : BitVec 8) : (s.setSession h n).ports.session = s.ports.session.set h n := rfl

@[simp] theorem setSession_ports_barredHost (h : HostId) (n : BitVec 8) : (s.setSession h n).ports.barredHost = s.ports.barredHost := rfl

@[simp] theorem setSession_ports_barredTarget (h : HostId) (n : BitVec 8) : (s.setSession h n).ports.barredTarget = s.ports.barredTarget := rfl

@[simp] theorem setSession_ports_egress (h : HostId) (n : BitVec 8) : (s.setSession h n).ports.egress = s.ports.egress := rfl

@[simp] theorem setSession_ports_egressPosition (h : HostId) (n : BitVec 8) : (s.setSession h n).ports.egressPosition = s.ports.egressPosition := rfl

@[simp] theorem setSession_ports_returns (h : HostId) (n : BitVec 8) : (s.setSession h n).ports.returns = s.ports.returns := rfl

@[simp] theorem setSession_events (h : HostId) (n : BitVec 8) : (s.setSession h n).events = s.events := rfl

@[simp] theorem setSession_pending (h : HostId) (n : BitVec 8) : (s.setSession h n).pending = s.pending := rfl

@[simp] theorem setSession_sent (h : HostId) (n : BitVec 8) : (s.setSession h n).sent = s.sent := rfl

@[simp] theorem setSession_slot (h : HostId) (n : BitVec 8) (k : Fin Config.slots) : (s.setSession h n).slot k = s.slot k := rfl

@[simp] theorem setSession_entry (h : HostId) (n : BitVec 8) (k : Fin Config.replyEntries) : (s.setSession h n).entry k = s.entry k := rfl

@[simp] theorem setSession_ingress (h : HostId) (n : BitVec 8) (k : HostId) : (s.setSession h n).ingress k = s.ingress k := rfl

@[simp] theorem setSession_mark (h : HostId) (n : BitVec 8) (k : HostId) : (s.setSession h n).mark k = s.mark k := rfl

@[simp] theorem setSession_orders (h : HostId) (n : BitVec 8) (k : Source) : (s.setSession h n).orders k = s.orders k := rfl

@[simp] theorem setSession_link (h : HostId) (n : BitVec 8) (k : Port) : (s.setSession h n).link k = s.link k := rfl

@[simp] theorem setSession_egress (h : HostId) (n : BitVec 8) (k : TargetId) : (s.setSession h n).egress k = s.egress k := rfl

@[simp] theorem setSession_returns (h : HostId) (n : BitVec 8) (k : Source) : (s.setSession h n).returns k = s.returns k := rfl

/-! ### setEgress -/

@[simp] theorem setEgress_ctl (t : TargetId) (q : List EgressPacket) : (s.setEgress t q).ctl = s.ctl := rfl

@[simp] theorem setEgress_dir (t : TargetId) (q : List EgressPacket) : (s.setEgress t q).dir = s.dir := rfl

@[simp] theorem setEgress_fwd (t : TargetId) (q : List EgressPacket) : (s.setEgress t q).fwd = s.fwd := rfl

@[simp] theorem setEgress_table (t : TargetId) (q : List EgressPacket) : (s.setEgress t q).table = s.table := rfl

@[simp] theorem setEgress_eng (t : TargetId) (q : List EgressPacket) : (s.setEgress t q).eng = s.eng := rfl

@[simp] theorem setEgress_ports_link (t : TargetId) (q : List EgressPacket) : (s.setEgress t q).ports.link = s.ports.link := rfl

@[simp] theorem setEgress_ports_held (t : TargetId) (q : List EgressPacket) : (s.setEgress t q).ports.held = s.ports.held := rfl

@[simp] theorem setEgress_ports_grantedRequest (t : TargetId) (q : List EgressPacket) : (s.setEgress t q).ports.grantedRequest = s.ports.grantedRequest := rfl

@[simp] theorem setEgress_ports_grantedOrder (t : TargetId) (q : List EgressPacket) : (s.setEgress t q).ports.grantedOrder = s.ports.grantedOrder := rfl

@[simp] theorem setEgress_ports_session (t : TargetId) (q : List EgressPacket) : (s.setEgress t q).ports.session = s.ports.session := rfl

@[simp] theorem setEgress_ports_barredHost (t : TargetId) (q : List EgressPacket) : (s.setEgress t q).ports.barredHost = s.ports.barredHost := rfl

@[simp] theorem setEgress_ports_barredTarget (t : TargetId) (q : List EgressPacket) : (s.setEgress t q).ports.barredTarget = s.ports.barredTarget := rfl

@[simp] theorem setEgress_ports_egress (t : TargetId) (q : List EgressPacket) : (s.setEgress t q).ports.egress = s.ports.egress.set t q := rfl

@[simp] theorem setEgress_ports_egressPosition (t : TargetId) (q : List EgressPacket) : (s.setEgress t q).ports.egressPosition = s.ports.egressPosition := rfl

@[simp] theorem setEgress_ports_returns (t : TargetId) (q : List EgressPacket) : (s.setEgress t q).ports.returns = s.ports.returns := rfl

@[simp] theorem setEgress_events (t : TargetId) (q : List EgressPacket) : (s.setEgress t q).events = s.events := rfl

@[simp] theorem setEgress_pending (t : TargetId) (q : List EgressPacket) : (s.setEgress t q).pending = s.pending := rfl

@[simp] theorem setEgress_sent (t : TargetId) (q : List EgressPacket) : (s.setEgress t q).sent = s.sent := rfl

@[simp] theorem setEgress_slot (t : TargetId) (q : List EgressPacket) (k : Fin Config.slots) : (s.setEgress t q).slot k = s.slot k := rfl

@[simp] theorem setEgress_entry (t : TargetId) (q : List EgressPacket) (k : Fin Config.replyEntries) : (s.setEgress t q).entry k = s.entry k := rfl

@[simp] theorem setEgress_ingress (t : TargetId) (q : List EgressPacket) (k : HostId) : (s.setEgress t q).ingress k = s.ingress k := rfl

@[simp] theorem setEgress_mark (t : TargetId) (q : List EgressPacket) (k : HostId) : (s.setEgress t q).mark k = s.mark k := rfl

@[simp] theorem setEgress_orders (t : TargetId) (q : List EgressPacket) (k : Source) : (s.setEgress t q).orders k = s.orders k := rfl

@[simp] theorem setEgress_link (t : TargetId) (q : List EgressPacket) (k : Port) : (s.setEgress t q).link k = s.link k := rfl

@[simp] theorem setEgress_egress_self (t : TargetId) (q : List EgressPacket) : (s.setEgress t q).egress t = q := PerTarget.get_set_self _ t q

theorem setEgress_egress_ne (t : TargetId) (q : List EgressPacket) {k : TargetId} (hne : k ≠ t) : (s.setEgress t q).egress k = s.egress k := PerTarget.get_set_ne _ q hne

theorem setEgress_egress (t : TargetId) (q : List EgressPacket) (k : TargetId) : (s.setEgress t q).egress k = if k = t then q else s.egress k := PerTarget.get_set _ t k q

@[simp] theorem setEgress_returns (t : TargetId) (q : List EgressPacket) (k : Source) : (s.setEgress t q).returns k = s.returns k := rfl

/-! ### setEgressPosition -/

@[simp] theorem setEgressPosition_ctl (t : TargetId) (h : HostId) : (s.setEgressPosition t h).ctl = s.ctl := rfl

@[simp] theorem setEgressPosition_dir (t : TargetId) (h : HostId) : (s.setEgressPosition t h).dir = s.dir := rfl

@[simp] theorem setEgressPosition_fwd (t : TargetId) (h : HostId) : (s.setEgressPosition t h).fwd = s.fwd := rfl

@[simp] theorem setEgressPosition_table (t : TargetId) (h : HostId) : (s.setEgressPosition t h).table = s.table := rfl

@[simp] theorem setEgressPosition_eng (t : TargetId) (h : HostId) : (s.setEgressPosition t h).eng = s.eng := rfl

@[simp] theorem setEgressPosition_ports_link (t : TargetId) (h : HostId) : (s.setEgressPosition t h).ports.link = s.ports.link := rfl

@[simp] theorem setEgressPosition_ports_held (t : TargetId) (h : HostId) : (s.setEgressPosition t h).ports.held = s.ports.held := rfl

@[simp] theorem setEgressPosition_ports_grantedRequest (t : TargetId) (h : HostId) : (s.setEgressPosition t h).ports.grantedRequest = s.ports.grantedRequest := rfl

@[simp] theorem setEgressPosition_ports_grantedOrder (t : TargetId) (h : HostId) : (s.setEgressPosition t h).ports.grantedOrder = s.ports.grantedOrder := rfl

@[simp] theorem setEgressPosition_ports_session (t : TargetId) (h : HostId) : (s.setEgressPosition t h).ports.session = s.ports.session := rfl

@[simp] theorem setEgressPosition_ports_barredHost (t : TargetId) (h : HostId) : (s.setEgressPosition t h).ports.barredHost = s.ports.barredHost := rfl

@[simp] theorem setEgressPosition_ports_barredTarget (t : TargetId) (h : HostId) : (s.setEgressPosition t h).ports.barredTarget = s.ports.barredTarget := rfl

@[simp] theorem setEgressPosition_ports_egress (t : TargetId) (h : HostId) : (s.setEgressPosition t h).ports.egress = s.ports.egress := rfl

@[simp] theorem setEgressPosition_ports_egressPosition (t : TargetId) (h : HostId) : (s.setEgressPosition t h).ports.egressPosition = s.ports.egressPosition.set t h := rfl

@[simp] theorem setEgressPosition_ports_returns (t : TargetId) (h : HostId) : (s.setEgressPosition t h).ports.returns = s.ports.returns := rfl

@[simp] theorem setEgressPosition_events (t : TargetId) (h : HostId) : (s.setEgressPosition t h).events = s.events := rfl

@[simp] theorem setEgressPosition_pending (t : TargetId) (h : HostId) : (s.setEgressPosition t h).pending = s.pending := rfl

@[simp] theorem setEgressPosition_sent (t : TargetId) (h : HostId) : (s.setEgressPosition t h).sent = s.sent := rfl

@[simp] theorem setEgressPosition_slot (t : TargetId) (h : HostId) (k : Fin Config.slots) : (s.setEgressPosition t h).slot k = s.slot k := rfl

@[simp] theorem setEgressPosition_entry (t : TargetId) (h : HostId) (k : Fin Config.replyEntries) : (s.setEgressPosition t h).entry k = s.entry k := rfl

@[simp] theorem setEgressPosition_ingress (t : TargetId) (h : HostId) (k : HostId) : (s.setEgressPosition t h).ingress k = s.ingress k := rfl

@[simp] theorem setEgressPosition_mark (t : TargetId) (h : HostId) (k : HostId) : (s.setEgressPosition t h).mark k = s.mark k := rfl

@[simp] theorem setEgressPosition_orders (t : TargetId) (h : HostId) (k : Source) : (s.setEgressPosition t h).orders k = s.orders k := rfl

@[simp] theorem setEgressPosition_link (t : TargetId) (h : HostId) (k : Port) : (s.setEgressPosition t h).link k = s.link k := rfl

@[simp] theorem setEgressPosition_egress (t : TargetId) (h : HostId) (k : TargetId) : (s.setEgressPosition t h).egress k = s.egress k := rfl

@[simp] theorem setEgressPosition_returns (t : TargetId) (h : HostId) (k : Source) : (s.setEgressPosition t h).returns k = s.returns k := rfl

/-! ### setReturns -/

@[simp] theorem setReturns_ctl (src : Source) (q : List ReturnPacket) : (s.setReturns src q).ctl = s.ctl := rfl

@[simp] theorem setReturns_dir (src : Source) (q : List ReturnPacket) : (s.setReturns src q).dir = s.dir := rfl

@[simp] theorem setReturns_fwd (src : Source) (q : List ReturnPacket) : (s.setReturns src q).fwd = s.fwd := rfl

@[simp] theorem setReturns_table (src : Source) (q : List ReturnPacket) : (s.setReturns src q).table = s.table := rfl

@[simp] theorem setReturns_eng (src : Source) (q : List ReturnPacket) : (s.setReturns src q).eng = s.eng := rfl

@[simp] theorem setReturns_ports_link (src : Source) (q : List ReturnPacket) : (s.setReturns src q).ports.link = s.ports.link := rfl

@[simp] theorem setReturns_ports_held (src : Source) (q : List ReturnPacket) : (s.setReturns src q).ports.held = s.ports.held := rfl

@[simp] theorem setReturns_ports_grantedRequest (src : Source) (q : List ReturnPacket) : (s.setReturns src q).ports.grantedRequest = s.ports.grantedRequest := rfl

@[simp] theorem setReturns_ports_grantedOrder (src : Source) (q : List ReturnPacket) : (s.setReturns src q).ports.grantedOrder = s.ports.grantedOrder := rfl

@[simp] theorem setReturns_ports_session (src : Source) (q : List ReturnPacket) : (s.setReturns src q).ports.session = s.ports.session := rfl

@[simp] theorem setReturns_ports_barredHost (src : Source) (q : List ReturnPacket) : (s.setReturns src q).ports.barredHost = s.ports.barredHost := rfl

@[simp] theorem setReturns_ports_barredTarget (src : Source) (q : List ReturnPacket) : (s.setReturns src q).ports.barredTarget = s.ports.barredTarget := rfl

@[simp] theorem setReturns_ports_egress (src : Source) (q : List ReturnPacket) : (s.setReturns src q).ports.egress = s.ports.egress := rfl

@[simp] theorem setReturns_ports_egressPosition (src : Source) (q : List ReturnPacket) : (s.setReturns src q).ports.egressPosition = s.ports.egressPosition := rfl

@[simp] theorem setReturns_ports_returns (src : Source) (q : List ReturnPacket) : (s.setReturns src q).ports.returns = s.ports.returns.set src q := rfl

@[simp] theorem setReturns_events (src : Source) (q : List ReturnPacket) : (s.setReturns src q).events = s.events := rfl

@[simp] theorem setReturns_pending (src : Source) (q : List ReturnPacket) : (s.setReturns src q).pending = s.pending := rfl

@[simp] theorem setReturns_sent (src : Source) (q : List ReturnPacket) : (s.setReturns src q).sent = s.sent := rfl

@[simp] theorem setReturns_slot (src : Source) (q : List ReturnPacket) (k : Fin Config.slots) : (s.setReturns src q).slot k = s.slot k := rfl

@[simp] theorem setReturns_entry (src : Source) (q : List ReturnPacket) (k : Fin Config.replyEntries) : (s.setReturns src q).entry k = s.entry k := rfl

@[simp] theorem setReturns_ingress (src : Source) (q : List ReturnPacket) (k : HostId) : (s.setReturns src q).ingress k = s.ingress k := rfl

@[simp] theorem setReturns_mark (src : Source) (q : List ReturnPacket) (k : HostId) : (s.setReturns src q).mark k = s.mark k := rfl

@[simp] theorem setReturns_orders (src : Source) (q : List ReturnPacket) (k : Source) : (s.setReturns src q).orders k = s.orders k := rfl

@[simp] theorem setReturns_link (src : Source) (q : List ReturnPacket) (k : Port) : (s.setReturns src q).link k = s.link k := rfl

@[simp] theorem setReturns_egress (src : Source) (q : List ReturnPacket) (k : TargetId) : (s.setReturns src q).egress k = s.egress k := rfl

@[simp] theorem setReturns_returns_self (src : Source) (q : List ReturnPacket) : (s.setReturns src q).returns src = q := PerSource.get_set_self _ src q

theorem setReturns_returns_ne (src : Source) (q : List ReturnPacket) {k : Source} (hne : k ≠ src) : (s.setReturns src q).returns k = s.returns k := PerSource.get_set_ne _ q hne

theorem setReturns_returns (src : Source) (q : List ReturnPacket) (k : Source) : (s.setReturns src q).returns k = if k = src then q else s.returns k := PerSource.get_set _ src k q

/-! ### setEvents -/

@[simp] theorem setEvents_ctl (e : Events) : (s.setEvents e).ctl = s.ctl := rfl

@[simp] theorem setEvents_dir (e : Events) : (s.setEvents e).dir = s.dir := rfl

@[simp] theorem setEvents_fwd (e : Events) : (s.setEvents e).fwd = s.fwd := rfl

@[simp] theorem setEvents_table (e : Events) : (s.setEvents e).table = s.table := rfl

@[simp] theorem setEvents_eng (e : Events) : (s.setEvents e).eng = s.eng := rfl

@[simp] theorem setEvents_ports (e : Events) : (s.setEvents e).ports = s.ports := rfl

@[simp] theorem setEvents_events (e : Events) : (s.setEvents e).events = e := rfl

@[simp] theorem setEvents_pending (e : Events) : (s.setEvents e).pending = s.pending := rfl

@[simp] theorem setEvents_sent (e : Events) : (s.setEvents e).sent = s.sent := rfl

@[simp] theorem setEvents_slot (e : Events) (k : Fin Config.slots) : (s.setEvents e).slot k = s.slot k := rfl

@[simp] theorem setEvents_entry (e : Events) (k : Fin Config.replyEntries) : (s.setEvents e).entry k = s.entry k := rfl

@[simp] theorem setEvents_ingress (e : Events) (k : HostId) : (s.setEvents e).ingress k = s.ingress k := rfl

@[simp] theorem setEvents_mark (e : Events) (k : HostId) : (s.setEvents e).mark k = s.mark k := rfl

@[simp] theorem setEvents_orders (e : Events) (k : Source) : (s.setEvents e).orders k = s.orders k := rfl

@[simp] theorem setEvents_link (e : Events) (k : Port) : (s.setEvents e).link k = s.link k := rfl

@[simp] theorem setEvents_egress (e : Events) (k : TargetId) : (s.setEvents e).egress k = s.egress k := rfl

@[simp] theorem setEvents_returns (e : Events) (k : Source) : (s.setEvents e).returns k = s.returns k := rfl

/-! ### send -/

@[simp] theorem send_ctl (p : Port) (u : WireUnit) : (s.send p u).ctl = s.ctl := rfl

@[simp] theorem send_dir (p : Port) (u : WireUnit) : (s.send p u).dir = s.dir := rfl

@[simp] theorem send_fwd (p : Port) (u : WireUnit) : (s.send p u).fwd = s.fwd := rfl

@[simp] theorem send_table (p : Port) (u : WireUnit) : (s.send p u).table = s.table := rfl

@[simp] theorem send_eng (p : Port) (u : WireUnit) : (s.send p u).eng = s.eng := rfl

@[simp] theorem send_ports (p : Port) (u : WireUnit) : (s.send p u).ports = s.ports := rfl

@[simp] theorem send_events (p : Port) (u : WireUnit) : (s.send p u).events = s.events := rfl

@[simp] theorem send_pending (p : Port) (u : WireUnit) : (s.send p u).pending = s.pending := rfl

@[simp] theorem send_sent (p : Port) (u : WireUnit) : (s.send p u).sent = s.sent ++ [(p, u)] := rfl

@[simp] theorem send_slot (p : Port) (u : WireUnit) (k : Fin Config.slots) : (s.send p u).slot k = s.slot k := rfl

@[simp] theorem send_entry (p : Port) (u : WireUnit) (k : Fin Config.replyEntries) : (s.send p u).entry k = s.entry k := rfl

@[simp] theorem send_ingress (p : Port) (u : WireUnit) (k : HostId) : (s.send p u).ingress k = s.ingress k := rfl

@[simp] theorem send_mark (p : Port) (u : WireUnit) (k : HostId) : (s.send p u).mark k = s.mark k := rfl

@[simp] theorem send_orders (p : Port) (u : WireUnit) (k : Source) : (s.send p u).orders k = s.orders k := rfl

@[simp] theorem send_link (p : Port) (u : WireUnit) (k : Port) : (s.send p u).link k = s.link k := rfl

@[simp] theorem send_egress (p : Port) (u : WireUnit) (k : TargetId) : (s.send p u).egress k = s.egress k := rfl

@[simp] theorem send_returns (p : Port) (u : WireUnit) (k : Source) : (s.send p u).returns k = s.returns k := rfl

/-! ### Writing back what stands there -/

@[simp] theorem setSlot_same (i : Fin Config.slots) : s.setSlot i (s.slot i) = s := by
  unfold setSlot
  have e : s.dir.slots.set i.val (s.slot i) i.isLt = s.dir.slots := Vector.set_getElem_self i.isLt
  rw [e]

@[simp] theorem setEntry_same (i : Fin Config.replyEntries) : s.setEntry i (s.entry i) = s := by
  unfold setEntry
  have e : s.table.entries.set i.val (s.entry i) i.isLt = s.table.entries := Vector.set_getElem_self i.isLt
  rw [e]

theorem setMark_same (h : HostId) : s.setMark h (s.mark h) = s := by
  unfold setMark mark
  rw [PerHost.set_get]

theorem setEvents_same : s.setEvents s.events = s := rfl

end Machine.State

end Sys2Proof
end

