-- ==== Sys2Proof/Laws/Events.lean ====
section
/-! SUPPORT. What setting a flag and the end of an event do (chapter 10): each operation of Machine/Flags.lean, once. -/

namespace Sys2Proof.Machine

/-! ### Flags -/

@[simp] theorem raiseFlag_pending (f : Flag) (ps : BitVec 9) (e : Events) :
    (raiseFlag f ps e).pending = e.pending ||| f.mask := rfl

@[simp] theorem raiseFlag_enabled (f : Flag) (ps : BitVec 9) (e : Events) : (raiseFlag f ps e).enabled = e.enabled := rfl

@[simp] theorem raiseFlag_details (f : Flag) (ps : BitVec 9) (e : Events) :
    (raiseFlag f ps e).details = e.details.set f.bit.val (e.details[f.bit] ||| ps) f.bit.isLt := rfl

@[simp] theorem raiseFlag_noteN (f : Flag) (ps : BitVec 9) (e : Events) :
    (raiseFlag f ps e).noteN = ((e.pending ||| f.mask) &&& e.enabled != 0) := rfl

@[simp] theorem raiseFlag_noticeOwed (f : Flag) (ps : BitVec 9) (e : Events) :
    (raiseFlag f ps e).noticeOwed = e.noticeOwed := rfl

@[simp] theorem raiseFlag_setting (f : Flag) (ps : BitVec 9) (e : Events) : (raiseFlag f ps e).setting = e.setting := rfl

@[simp] theorem raiseFlag_notificationOwed (f : Flag) (ps : BitVec 9) (e : Events) :
    (raiseFlag f ps e).notificationOwed = e.notificationOwed := rfl

/-- Setting a flag touches the events alone. -/
theorem setFlag_eq (f : Flag) (p : Port) (s : State) : setFlag f p s = { s with events := raiseFlag f (portMask p) s.events } :=
  rfl

theorem setPlainFlag_eq (f : Flag) (s : State) : setPlainFlag f s = { s with events := raiseFlag f 0 s.events } := rfl

theorem setProtocol_eq (p : Port) (s : State) :
    setProtocol p s = { s with events := raiseFlag .protocol (portMask p) s.events } := rfl

/-- Setting a flag in any state leaves what FlagRaised says. -/
theorem flagRaised_raise (f : Flag) (ps : BitVec 9) (s t : State) (h : t.events = raiseFlag f ps s.events) :
    FlagRaised f ps s t := by
  rw [FlagRaised, h]
  refine ⟨rfl, rfl, rfl, ?_, rfl⟩
  simp

/-- A flag that is set is pending. -/
theorem mask_bit (f : Flag) : f.mask.getLsbD f.bit.val = true := by cases f <;> decide

/-- FlagRaised looks at pending marks, enables, details, NOTE_N and the setting alone. -/
theorem FlagRaised.congr {f : Flag} {ps : BitVec 9} {s t u : State} (h : FlagRaised f ps s t)
    (hp : u.events.pending = t.events.pending) (he : u.events.enabled = t.events.enabled)
    (hd : u.events.details = t.events.details) (hn : u.events.noteN = t.events.noteN)
    (hs : u.events.setting = t.events.setting) : FlagRaised f ps s u := by
  obtain ⟨a, b, c, d, e⟩ := h
  exact ⟨hp.trans a, he.trans b, hd.trans c, by rw [hn, hp, he]; exact d, hs.trans e⟩

/-- A flag that has been raised with a port shows it. -/
theorem FlagRaised.shows {f : Flag} {p : Port} {s t : State} (h : FlagRaised f (portMask p) s t) : FlagShows f p t := by
  obtain ⟨a, _, c, _, _⟩ := h
  refine ⟨?_, ?_⟩
  · rw [a, BitVec.getLsbD_or, mask_bit, Bool.or_true]
  · rw [c]
    have e : (s.events.details.set f.bit.val (s.events.details[f.bit] ||| portMask p) f.bit.isLt)[f.bit] =
        s.events.details[f.bit] ||| portMask p := Vector.getElem_set_self f.bit.isLt
    rw [e]
    ext i hi
    simp only [BitVec.getElem_and, BitVec.getElem_or]
    cases (portMask p)[i] <;> simp

/-! ### The end of an event -/

/-- M's side moves the notice owed mark and M's return queue alone. -/
theorem notifyMgmt_eq (o q : Bool) (s : State) :
    ∃ b r, notifyMgmt o q s = (s.setEvents { s.events with noticeOwed := b }).setReturns .mgmt r ∧
      (r = s.returns .mgmt ∨ ∃ fs, r = s.returns .mgmt ++ [.notice fs]) := by
  have same : s = (s.setEvents { s.events with noticeOwed := s.events.noticeOwed }).setReturns .mgmt (s.returns .mgmt) := rfl
  unfold notifyMgmt setNoticeOwed
  split
  · dsimp only
    split
    · exact ⟨false, _, rfl, .inr ⟨_, rfl⟩⟩
    · exact ⟨false, s.returns .mgmt, rfl, .inl rfl⟩
  · split
    · split
      · exact ⟨s.events.noticeOwed, _, rfl, .inr ⟨_, rfl⟩⟩
      · exact ⟨true, s.returns .mgmt, rfl, .inl rfl⟩
    · exact ⟨_, _, same, .inl rfl⟩

/-- The notified host's side moves the notification owed mark and the host's return queue alone. -/
theorem notifyHost_eq (h : HostId) (o q : Bool) (s : State) :
    ∃ b r, notifyHost h o q s = (s.setEvents { s.events with notificationOwed := b }).setReturns (.host h) r ∧
      (r = s.returns (.host h) ∨ ∃ a v, r = s.returns (.host h) ++ [.notification a v]) := by
  have same : ∀ b, s.setEvents { s.events with notificationOwed := b } =
      (s.setEvents { s.events with notificationOwed := b }).setReturns (.host h) (s.returns (.host h)) := by
    intro b
    unfold State.setReturns State.returns
    simp only [State.setEvents_ports, PerSource.set_get]
    rfl
  unfold notifyHost setNotificationOwed
  dsimp only
  split
  · split
    · exact ⟨false, _, rfl, .inr ⟨_, _, rfl⟩⟩
    · exact ⟨false, _, same false, .inl rfl⟩
  · split
    · split
      · exact ⟨s.events.notificationOwed, _, rfl, .inr ⟨_, _, rfl⟩⟩
      · exact ⟨true, _, same true, .inl rfl⟩
    · exact ⟨s.events.notificationOwed, _, same _, .inl rfl⟩

theorem NoticesOnly.refl (s : State) : NoticesOnly s s := ⟨.inl rfl, fun _ => .inl rfl⟩

/-- Only the return queues matter to NoticesOnly. -/
theorem NoticesOnly.congr_left {s s' t : State} (h : NoticesOnly s t) (e : s'.ports.returns = s.ports.returns) :
    NoticesOnly s' t := by
  unfold NoticesOnly State.returns at *
  rw [e]
  exact h

/-- Everything the end of an event can do: the two owed marks and, at the tail of a return queue, a NOTICE and a notification
POST. -/
theorem notify_eq (before : State) (prompt : Option Port) (s : State) :
    ∃ b c r, notify before prompt s =
        { s with
          events := { s.events with noticeOwed := b, notificationOwed := c }
          ports := { s.ports with returns := r } } ∧
      NoticesOnly s (notify before prompt s) := by
  unfold notify
  dsimp only
  obtain ⟨b, r, e, hr⟩ := notifyMgmt_eq (isOccasion before s) (decide (prompt = some .mgmt)) s
  have hm : NoticesOnly s (notifyMgmt (isOccasion before s) (decide (prompt = some .mgmt)) s) := by
    rw [e]
    exact ⟨hr, fun _ => .inl rfl⟩
  split
  · next h _ =>
    obtain ⟨c, r', e', hr'⟩ := notifyHost_eq h (isOccasion before s) (decide (prompt = some (.host h)))
      (notifyMgmt (isOccasion before s) (decide (prompt = some .mgmt)) s)
    refine ⟨b, c, (s.ports.returns.set .mgmt r).set (.host h) r', ?_, ?_⟩
    · rw [e', e]
      rfl
    · rw [e']
      refine ⟨?_, fun k => ?_⟩
      · rw [State.setReturns_returns_ne _ _ _ (by simp)]
        exact hm.1
      · by_cases hk : k = h
        · subst hk
          rw [State.setReturns_returns_self]
          rcases hr' with hr' | ⟨a, v, hr'⟩
          · rw [hr']
            exact hm.2 k
          · refine .inr ⟨a, v, ?_⟩
            rw [hr', e]
            rfl
        · rw [State.setReturns_returns_ne _ _ _ (by simpa using hk)]
          exact hm.2 k
  · exact ⟨b, s.events.notificationOwed, s.ports.returns.set .mgmt r, by rw [e]; rfl, hm⟩

section notify

variable (before : State) (prompt : Option Port) (s : State)

@[simp] theorem notify_ctl : (notify before prompt s).ctl = s.ctl := by
  obtain ⟨_, _, _, e, _⟩ := notify_eq before prompt s
  rw [e]

@[simp] theorem notify_dir : (notify before prompt s).dir = s.dir := by
  obtain ⟨_, _, _, e, _⟩ := notify_eq before prompt s
  rw [e]

@[simp] theorem notify_fwd : (notify before prompt s).fwd = s.fwd := by
  obtain ⟨_, _, _, e, _⟩ := notify_eq before prompt s
  rw [e]

@[simp] theorem notify_table : (notify before prompt s).table = s.table := by
  obtain ⟨_, _, _, e, _⟩ := notify_eq before prompt s
  rw [e]

@[simp] theorem notify_eng : (notify before prompt s).eng = s.eng := by
  obtain ⟨_, _, _, e, _⟩ := notify_eq before prompt s
  rw [e]

@[simp] theorem notify_pending : (notify before prompt s).pending = s.pending := by
  obtain ⟨_, _, _, e, _⟩ := notify_eq before prompt s
  rw [e]

@[simp] theorem notify_sent : (notify before prompt s).sent = s.sent := by
  obtain ⟨_, _, _, e, _⟩ := notify_eq before prompt s
  rw [e]

theorem notify_ports : (notify before prompt s).ports =
    { s.ports with returns := (notify before prompt s).ports.returns } := by
  obtain ⟨_, _, _, e, _⟩ := notify_eq before prompt s
  rw [e]

theorem notify_events : (notify before prompt s).events =
    { s.events with
      noticeOwed := (notify before prompt s).events.noticeOwed
      notificationOwed := (notify before prompt s).events.notificationOwed } := by
  obtain ⟨_, _, _, e, _⟩ := notify_eq before prompt s
  rw [e]

theorem notify_noticesOnly : NoticesOnly s (notify before prompt s) := by
  obtain ⟨_, _, _, _, h⟩ := notify_eq before prompt s
  exact h

/-- The end of an event moves nothing but owed marks and return queues. -/
theorem notify_frame : notify before prompt s =
    { s with events := (notify before prompt s).events, ports := { s.ports with returns := (notify before prompt s).ports.returns } } := by
  obtain ⟨_, _, _, e, _⟩ := notify_eq before prompt s
  rw [e]

@[simp] theorem notify_slot (i : Fin Config.slots) : (notify before prompt s).slot i = s.slot i := by
  unfold State.slot; rw [notify_dir]

@[simp] theorem notify_entry (i : Fin Config.replyEntries) : (notify before prompt s).entry i = s.entry i := by
  unfold State.entry; rw [notify_table]

@[simp] theorem notify_ingress (h : HostId) : (notify before prompt s).ingress h = s.ingress h := by
  unfold State.ingress; rw [notify_fwd]

@[simp] theorem notify_mark (h : HostId) : (notify before prompt s).mark h = s.mark h := by
  unfold State.mark; rw [notify_fwd]

@[simp] theorem notify_orders (src : Source) : (notify before prompt s).orders src = s.orders src := by
  unfold State.orders; rw [notify_eng]

@[simp] theorem notify_link (p : Port) : (notify before prompt s).link p = s.link p := by
  unfold State.link; rw [notify_ports]

@[simp] theorem notify_egress (t : TargetId) : (notify before prompt s).egress t = s.egress t := by
  unfold State.egress; rw [notify_ports]

/-- The marks and details as the event has set them, NOTE_N and the setting are not moved by its end. -/
theorem notify_flagRaised {f : Flag} {ps : BitVec 9} {u : State} (h : FlagRaised f ps u s) :
    FlagRaised f ps u (notify before prompt s) :=
  h.congr (by rw [notify_events]) (by rw [notify_events]) (by rw [notify_events]) (by rw [notify_events]) (by rw [notify_events])

/-- A return queue only grows. -/
theorem notify_returns (src : Source) : s.returns src <+: (notify before prompt s).returns src := by
  have h := notify_noticesOnly before prompt s
  cases src with
  | mgmt =>
    rcases h.1 with e | ⟨fs, e⟩
    · rw [e]
    · rw [e]; exact List.prefix_append _ _
  | host k =>
    rcases h.2 k with e | ⟨a, v, e⟩
    · rw [e]
    · rw [e]; exact List.prefix_append _ _

end notify

/-- An event at which no flag becomes pending and enabled, and which makes no port act on an owed mark, ends without notice. -/
theorem notify_quiet (before s : State) (h : isOccasion before s = false) : notify before none s = s := by
  unfold notify notifyMgmt notifyHost
  rw [h]
  simp only [reduceCtorEq, decide_false, Bool.false_and, Bool.false_eq_true, if_false]
  split <;> rfl

/-- Flags that are as they were make no occasion. -/
theorem not_isOccasion (before s : State) (hp : s.events.pending = before.events.pending)
    (he : s.events.enabled = before.events.enabled) : isOccasion before s = false := by
  unfold isOccasion activeFlags
  rw [hp, he]
  simp only [bne_eq_false_iff_eq]
  ext i hi
  simp

/-- An event that leaves flags alone ends without notice. -/
theorem notify_same (before s : State) (h : s.events = before.events) : notify before none s = s :=
  notify_quiet _ _ (not_isOccasion _ _ (by rw [h]) (by rw [h]))

/-- An event that sets one flag and does nothing else. -/
theorem flagOnly_setFlag (f : Flag) (p : Port) (s : State) : FlagOnly f p s (notify s none (setFlag f p s)) := by
  refine ⟨notify_flagRaised _ _ _ (flagRaised_raise _ _ _ _ rfl), (notify_noticesOnly _ _ _).congr_left rfl, ?_⟩
  rw [notify_frame]
  rfl

end Sys2Proof.Machine
end

