-- ==== Sys2Proof/Laws/Traffic.lean ====
section
/-! SUPPORT. What a forward attempt and the offers of freed resources can do (chapter 2), once for all of them. -/

namespace Sys2Proof.Machine

/-- All that forward attempts can change: counts, FREE entries, tails of egress and return queues, ingress queues and waiting
marks, unused REQUEST grants, flags, positions and what has left. -/
structure TrafficMoves (s t : State) : Prop where
  ctl : t.ctl = s.ctl
  eng : t.eng = s.eng
  pending : t.pending = s.pending
  windows : WindowsKept s t
  pool : t.dir.poolFree = s.dir.poolFree
  fallback : t.dir.fallback = s.dir.fallback
  epochs : ∀ i, (t.entry i).epoch = (s.entry i).epoch
  entries : ∀ i, (s.entry i).state ≠ .free → t.entry i = s.entry i
  egress : ∀ g, s.egress g <+: t.egress g
  closed : ∀ g, targetOpen g s = false → t.egress g = s.egress g
  returns : ∀ src, s.returns src <+: t.returns src
  mgmt : t.returns .mgmt = s.returns .mgmt
  sent : s.sent <+: t.sent
  link : t.ports.link = s.ports.link
  held : t.ports.held = s.ports.held
  grantedOrder : t.ports.grantedOrder = s.ports.grantedOrder
  session : t.ports.session = s.ports.session
  barredHost : t.ports.barredHost = s.ports.barredHost
  barredTarget : t.ports.barredTarget = s.ports.barredTarget
  shows : ∀ f p, FlagShows f p s → FlagShows f p t
  flags : ∀ i, s.events.pending.getLsbD i = true → t.events.pending.getLsbD i = true
  enabled : t.events.enabled = s.events.enabled
  noticeOwed : t.events.noticeOwed = s.events.noticeOwed
  notificationOwed : t.events.notificationOwed = s.events.notificationOwed
  setting : t.events.setting = s.events.setting

theorem TrafficMoves.refl (s : State) : TrafficMoves s s :=
  ⟨rfl, rfl, rfl, fun _ => ⟨rfl, rfl⟩, rfl, rfl, fun _ => rfl, fun _ _ => rfl, fun _ => List.prefix_rfl, fun _ _ => rfl,
    fun _ => List.prefix_rfl, rfl, List.prefix_rfl, rfl, rfl, rfl, rfl, rfl, rfl, fun _ _ h => h, fun _ h => h,
    rfl, rfl, rfl, rfl⟩

theorem targetOpen_congr {s t : State} (hl : t.ports.link = s.ports.link) (hb : t.ports.barredTarget = s.ports.barredTarget)
    (g : TargetId) : targetOpen g t = targetOpen g s := by
  unfold targetOpen isUp State.link
  rw [hl, hb]

theorem TrafficMoves.trans {s t u : State} (a : TrafficMoves s t) (b : TrafficMoves t u) : TrafficMoves s u where
  ctl := b.ctl.trans a.ctl
  eng := b.eng.trans a.eng
  pending := b.pending.trans a.pending
  windows i := ⟨(b.windows i).1.trans (a.windows i).1, (b.windows i).2.trans (a.windows i).2⟩
  pool := b.pool.trans a.pool
  fallback := b.fallback.trans a.fallback
  epochs i := (b.epochs i).trans (a.epochs i)
  entries i h := (b.entries i (by rw [a.entries i h]; exact h)).trans (a.entries i h)
  egress g := (a.egress g).trans (b.egress g)
  closed g h := (b.closed g (by rw [targetOpen_congr a.link a.barredTarget]; exact h)).trans (a.closed g h)
  returns src := (a.returns src).trans (b.returns src)
  mgmt := b.mgmt.trans a.mgmt
  sent := a.sent.trans b.sent
  link := b.link.trans a.link
  held := b.held.trans a.held
  grantedOrder := b.grantedOrder.trans a.grantedOrder
  session := b.session.trans a.session
  barredHost := b.barredHost.trans a.barredHost
  barredTarget := b.barredTarget.trans a.barredTarget
  shows f p h := b.shows f p (a.shows f p h)
  flags i h := b.flags i (a.flags i h)
  enabled := b.enabled.trans a.enabled
  noticeOwed := b.noticeOwed.trans a.noticeOwed
  notificationOwed := b.notificationOwed.trans a.notificationOwed
  setting := b.setting.trans a.setting

/-! ### The single moves -/

theorem moves_setMark (s : State) (h : HostId) (m : WaitMark) : TrafficMoves s (s.setMark h m) :=
  { TrafficMoves.refl s with }

theorem moves_setEntryPosition (s : State) (h : HostId) : TrafficMoves s (s.setEntryPosition h) :=
  { TrafficMoves.refl s with }

theorem moves_setEgressPosition (s : State) (g : TargetId) (h : HostId) : TrafficMoves s (s.setEgressPosition g h) :=
  { TrafficMoves.refl s with }

/-- The head leaves and its credit goes back, in one record. -/
theorem takeHead_eq (h : HostId) (s : State) :
    takeHead h s =
      { s with
        fwd := { s.fwd with ingress := s.fwd.ingress.set h (s.ingress h).tail }
        ports := { s.ports with grantedRequest := s.ports.grantedRequest.set h (s.ports.grantedRequest.get h + 1) }
        sent := s.sent ++ [(.host h, .credit .request 1)] } := rfl

theorem moves_takeHead (h : HostId) (s : State) : TrafficMoves s (takeHead h s) :=
  { TrafficMoves.refl s with sent := List.prefix_append _ _ }

theorem shows_raise {f : Flag} {p : Port} (g : Flag) (ps : BitVec 9) (s : State) (h : FlagShows f p s) :
    FlagShows f p (s.setEvents (raiseFlag g ps s.events)) := by
  obtain ⟨a, b⟩ := h
  refine ⟨?_, ?_⟩
  · rw [State.setEvents_events, raiseFlag_pending, BitVec.getLsbD_or, a, Bool.true_or]
  · rw [State.setEvents_events, raiseFlag_details]
    by_cases e : g = f
    · subst e
      have x : (s.events.details.set g.bit.val (s.events.details[g.bit] ||| ps) g.bit.isLt)[g.bit] =
          s.events.details[g.bit] ||| ps := Vector.getElem_set_self g.bit.isLt
      rw [x]
      ext i hi
      have hb := congrArg (fun v : BitVec 9 => v[i]) b
      simp only [BitVec.getElem_and, BitVec.getElem_or] at hb ⊢
      revert hb
      cases (portMask p)[i] <;> cases (s.events.details[g.bit])[i] <;> simp
    · have n : g.bit.val ≠ f.bit.val := by
        intro hv
        apply e
        revert hv
        cases g <;> cases f <;> decide
      have x : (s.events.details.set g.bit.val (s.events.details[g.bit] ||| ps) g.bit.isLt)[f.bit] =
          s.events.details[f.bit] := Vector.getElem_set_ne g.bit.isLt f.bit.isLt n
      rw [x]
      exact b

theorem moves_setFlag (f : Flag) (p : Port) (s : State) : TrafficMoves s (setFlag f p s) :=
  { TrafficMoves.refl s with
    shows := fun _ _ h => shows_raise f (portMask p) s h
    flags := fun i h => by rw [setFlag_eq, raiseFlag_pending, BitVec.getLsbD_or, h, Bool.true_or] }

theorem raiseCount_windows (r : Route) (s : State) : WindowsKept s (raiseCount r s) := by
  intro i
  unfold raiseCount
  split
  · next h =>
    by_cases e : i = h.slot
    · subst e; simp
    · rw [State.setSlot_slot_ne _ _ _ e]; exact ⟨rfl, rfl⟩
  · exact ⟨rfl, rfl⟩

theorem moves_raiseCount (r : Route) (s : State) : TrafficMoves s (raiseCount r s) := by
  have w := raiseCount_windows r s
  cases r with
  | window h => exact { TrafficMoves.refl s with windows := w }
  | fallback => exact { TrafficMoves.refl s with windows := w }

theorem moves_pushEgress (g : TargetId) (pkt : EgressPacket) (s : State) (ho : targetOpen g s = true) :
    TrafficMoves s (pushEgress g pkt s) := by
  refine { TrafficMoves.refl s with egress := fun k => ?_, closed := fun k hk => ?_ }
  · unfold pushEgress
    by_cases e : k = g
    · subst e; rw [State.setEgress_egress_self]; exact List.prefix_append _ _
    · rw [State.setEgress_egress_ne _ _ _ e]
  · unfold pushEgress
    by_cases e : k = g
    · subst e; rw [ho] at hk; cases hk
    · rw [State.setEgress_egress_ne _ _ _ e]

theorem moves_pushReturn (h : HostId) (pkt : ReturnPacket) (s : State) : TrafficMoves s (pushReturn (.host h) pkt s) := by
  refine { TrafficMoves.refl s with returns := fun k => ?_, mgmt := ?_ }
  · unfold pushReturn
    by_cases e : k = .host h
    · subst e; rw [State.setReturns_returns_self]; exact List.prefix_append _ _
    · rw [State.setReturns_returns_ne _ _ _ e]
  · unfold pushReturn
    rw [State.setReturns_returns_ne _ _ _ (by simp)]

theorem moves_setEntry (i : Fin Config.replyEntries) (st : EntryState) (s : State) (hf : (s.entry i).state = .free) :
    TrafficMoves s (s.setEntry i ⟨(s.entry i).epoch, st⟩) := by
  refine { TrafficMoves.refl s with epochs := fun k => ?_, entries := fun k hk => ?_ }
  · by_cases e : k = i
    · subst e; simp
    · rw [State.setEntry_entry_ne _ _ _ e]
  · by_cases e : k = i
    · subst e; exact absurd hf hk
    · rw [State.setEntry_entry_ne _ _ _ e]

/-! ### Carrying out a plan -/

theorem isFree_iff (e : Entry) : e.isFree = true ↔ e.state = .free := by
  unfold Entry.isFree
  simp

/-- What lowestFree finds is the lowest-numbered FREE entry (R53). -/
theorem lowestFree_spec {s : State} {i : Fin Config.replyEntries} (h : lowestFree s = some i) :
    (s.entry i).state = .free := by
  unfold lowestFree at h
  have e := List.find?_some h
  exact (isFree_iff _).1 e

/-- An entry that an attempt allocates was FREE. -/
theorem entryFor_free {s : State} {o : Option (Fin Config.replyEntries)} {i : Fin Config.replyEntries}
    (h : entryFor s o = some i) : (s.entry i).state = .free := by
  unfold entryFor at h
  split at h
  · split at h
    · next hf => cases h; exact (isFree_iff _).1 hf
    · exact lowestFree_spec h
  · exact lowestFree_spec h

theorem moves_answerEntry (i : Fin Config.replyEntries) (a : Answered) (s : State) (hf : (s.entry i).state = .free) :
    TrafficMoves s (answerEntry i a s) := (moves_setEntry i _ s hf).trans (moves_pushReturn _ _ _)

theorem moves_forwardFetch (h : HostId) (tag : BitVec 8) (n : Nat) (hop : Hop) (i : Fin Config.replyEntries) (s : State)
    (hf : (s.entry i).state = .free) (ho : targetOpen hop.target s = true) : TrafficMoves s (forwardFetch h tag n hop i s) :=
  ((moves_setEntry i _ s hf).trans (moves_pushEgress _ _ _ ho)).trans (moves_raiseCount _ _)

theorem moves_placePost (h : HostId) (d : List Byte) (hop : Hop) (g : TargetId) (s : State) (ho : targetOpen g s = true) :
    TrafficMoves s (placePost h d hop g s) := (moves_pushEgress _ _ _ ho).trans (moves_raiseCount _ _)

theorem moves_forwardPost (h : HostId) (d : List Byte) (hop : Hop) (s : State) (ho : targetOpen hop.target s = true) :
    TrafficMoves s (forwardPost h d hop s) := by
  unfold forwardPost
  have p := moves_placePost h d hop hop.target s ho
  dsimp only
  split
  · next m hm =>
    refine p.trans (moves_placePost _ _ _ _ _ ?_)
    rw [targetOpen_congr p.link p.barredTarget]
    unfold copyPort at hm
    split at hm
    · split at hm
      · next hopen => cases hm; exact hopen
      · cases hm
    · cases hm
  · split
    · exact p.trans (moves_setFlag _ _ _)
    · exact p

/-- A request is forwarded only to a target that is UP and not barred. -/
theorem lookup_open {s : State} {h : HostId} {r : Request} {hop : Hop} (e : lookup s h r = .forward hop) :
    targetOpen hop.target s = true := by
  unfold lookup at e
  split at e
  · cases e
  · split at e
    · split at e
      · unfold lookupWindow at e
        split at e
        · cases e
        · cases e
        · cases e
        · split at e
          · cases e
          · split at e
            · cases e
            · split at e
              · cases e
              · next ho => cases e; simpa using ho
      · cases e
    · split at e
      · cases e
      · unfold lookupFallback at e
        split at e
        · cases e
        · split at e
          · next ho => cases e; exact ho
          · cases e

/-- The target a plan would send to. -/
def Plan.open (s : State) : Plan → Prop
  | .sendFetch _ _ hop => targetOpen hop.target s = true
  | .sendPost _ hop => targetOpen hop.target s = true
  | _ => True

theorem planOf_open (s : State) (h : HostId) (r : Request) : (planOf s h r).open s := by
  unfold planOf
  split
  · split
    · trivial
    · split
      · trivial
      · next hop e => exact lookup_open e
  · split
    · trivial
    · next hop e => exact lookup_open e

theorem moves_carryOut (h : HostId) (o : Option (Fin Config.replyEntries)) (plan : Plan) (s : State) (ho : plan.open s) :
    TrafficMoves s (carryOut h o plan s) := by
  unfold carryOut
  split
  · exact moves_setFlag _ _ _
  · exact moves_setFlag _ _ _
  · split
    · next i e => exact moves_answerEntry _ _ _ (entryFor_free e)
    · exact TrafficMoves.refl _
  · split
    · next i e => exact moves_forwardFetch _ _ _ _ _ _ (entryFor_free e) ho
    · exact TrafficMoves.refl _
  · exact moves_forwardPost _ _ _ _ ho

/-- The targets a plan looks at are open or not whatever an attempt has done. -/
theorem Plan.open_congr {s t : State} (m : TrafficMoves s t) (plan : Plan) (h : plan.open s) : plan.open t := by
  cases plan with
  | sendFetch tag n hop => exact (targetOpen_congr m.link m.barredTarget _).trans h
  | sendPost d hop => exact (targetOpen_congr m.link m.barredTarget _).trans h
  | discard => trivial
  | answer tag st => trivial
  | drop => trivial

theorem moves_attempt (h : HostId) (o : Option (Fin Config.replyEntries)) (s : State) :
    TrafficMoves s (attempt h o s) := by
  have m := moves_setMark s h .clear
  unfold attempt
  dsimp only
  split
  · exact m
  · next r rest _ =>
    split
    · have k := moves_takeHead h (s.setMark h .clear)
      exact (m.trans k).trans (moves_carryOut _ _ _ _ (Plan.open_congr k _ (planOf_open _ _ _)))
    · exact m.trans (moves_setMark _ _ _)

/-! ### Offers -/

theorem moves_offerEntryTo (i : Fin Config.replyEntries) (hs : List HostId) (s : State) :
    TrafficMoves s (offerEntryTo i hs s) := by
  induction hs generalizing s with
  | nil => exact TrafficMoves.refl s
  | cons h hs ih =>
    unfold offerEntryTo
    split
    · dsimp only
      split
      · exact (moves_attempt _ _ _).trans (ih _)
      · exact (moves_attempt _ _ _).trans (moves_setEntryPosition _ _)
    · exact ih s

theorem moves_offerPlaceTo (g : TargetId) (hs : List HostId) (s : State) : TrafficMoves s (offerPlaceTo g hs s) := by
  induction hs generalizing s with
  | nil => exact TrafficMoves.refl s
  | cons h hs ih =>
    unfold offerPlaceTo
    split
    · dsimp only
      split
      · exact (moves_attempt _ _ _).trans (moves_setEgressPosition _ _ _)
      · exact (moves_attempt _ _ _).trans (ih _)
    · exact ih s

theorem moves_offerPlaces (g : TargetId) (n : Nat) (s : State) : TrafficMoves s (offerPlaces g n s) := by
  induction n generalizing s with
  | zero => exact TrafficMoves.refl s
  | succ n ih => exact (moves_offerPlaceTo _ _ _).trans (ih _)

/-- What holds of every step of a fold holds of the fold, for a reflexive and transitive relation. -/
theorem foldl_rel {α β : Type} {R : β → β → Prop} (refl : ∀ b, R b b) (trans : ∀ a b c, R a b → R b c → R a c)
    (f : β → α → β) (step : ∀ b a, R b (f b a)) (l : List α) (b : β) : R b (l.foldl f b) := by
  induction l generalizing b with
  | nil => exact refl b
  | cons a l ih => exact trans _ _ _ (step b a) (ih _)

/-- Everything the offers of an event can do. -/
theorem moves_offerFreed (before s : State) : TrafficMoves s (offerFreed before s) := by
  unfold offerFreed
  refine TrafficMoves.trans (foldl_rel (R := TrafficMoves) TrafficMoves.refl (fun _ _ _ => TrafficMoves.trans)
    (fun s' i => offerEntry i s') (fun b a => moves_offerEntryTo _ _ _) (freedEntries before s) s) ?_
  exact foldl_rel (R := TrafficMoves) TrafficMoves.refl (fun _ _ _ => TrafficMoves.trans) _
    (fun b a => moves_offerPlaces _ _ _) _ _

/-! ### Offers while no host waits -/

theorem offerEntryTo_idle (i : Fin Config.replyEntries) (hs : List HostId) (s : State) (h : NoHostWaits s) :
    offerEntryTo i hs s = s := by
  induction hs with
  | nil => rfl
  | cons k hs ih =>
    unfold offerEntryTo
    rw [h k]
    exact ih

theorem offerPlaceTo_idle (g : TargetId) (hs : List HostId) (s : State) (h : NoHostWaits s) : offerPlaceTo g hs s = s := by
  induction hs with
  | nil => rfl
  | cons k hs ih =>
    unfold offerPlaceTo
    rw [h k]
    simp only [WaitMark.clear, PerTarget.get_replicate, Bool.false_eq_true, if_false]
    exact ih

theorem offerPlaces_idle (g : TargetId) (n : Nat) (s : State) (h : NoHostWaits s) : offerPlaces g n s = s := by
  induction n with
  | zero => rfl
  | succ n ih =>
    unfold offerPlaces offerPlace
    rw [offerPlaceTo_idle _ _ _ h]
    exact ih

theorem foldl_idle {α β : Type} (f : β → α → β) (b : β) (h : ∀ a, f b a = b) (l : List α) : l.foldl f b = b := by
  induction l with
  | nil => rfl
  | cons a l ih => rw [List.foldl_cons, h a]; exact ih

/-- With no host waiting, nothing that is freed is taken. -/
theorem offerFreed_idle (before s : State) (h : NoHostWaits s) : offerFreed before s = s := by
  unfold offerFreed
  rw [foldl_idle (fun s' i => offerEntry i s') s (fun i => offerEntryTo_idle i _ s h) (freedEntries before s)]
  exact foldl_idle _ _ (fun g => offerPlaces_idle g _ s h) _

/-! ### A host that does not wait -/

/-- The host's own queue and mark are as they were. -/
def HostIdle (h : HostId) (s t : State) : Prop := s.mark h = .clear → t.mark h = .clear ∧ t.ingress h = s.ingress h

theorem HostIdle.trans {h : HostId} {s t u : State} (a : HostIdle h s t) (b : HostIdle h t u) : HostIdle h s u :=
  fun c => ⟨(b (a c).1).1, (b (a c).1).2.trans (a c).2⟩

theorem carryOut_fwd (h : HostId) (o : Option (Fin Config.replyEntries)) (plan : Plan) (s : State) :
    (carryOut h o plan s).fwd = s.fwd := by
  have rc : ∀ r u, (raiseCount r u).fwd = u.fwd := by intro r u; cases r <;> rfl
  unfold carryOut
  split
  · rfl
  · rfl
  · split <;> rfl
  · split
    · exact rc _ _
    · rfl
  · unfold forwardPost
    dsimp only
    split
    · exact (rc _ _).trans (rc _ _)
    · split
      · exact rc _ _
      · exact rc _ _

theorem attempt_other (h k : HostId) (o : Option (Fin Config.replyEntries)) (s : State) (hne : k ≠ h) :
    (attempt h o s).mark k = s.mark k ∧ (attempt h o s).ingress k = s.ingress k := by
  have m : ∀ (u : State) (x : WaitMark), (u.setMark h x).mark k = u.mark k := fun u x => State.setMark_mark_ne u h x hne
  unfold attempt
  dsimp only
  split
  · exact ⟨m _ _, rfl⟩
  · split
    · have f := carryOut_fwd h o
      refine ⟨?_, ?_⟩
      · unfold State.mark
        rw [f]
        exact m _ _
      · unfold State.ingress
        rw [f]
        exact PerHost.get_set_ne _ _ hne
    · exact ⟨(m _ _).trans (m _ _), rfl⟩

theorem idle_offerEntryTo (h : HostId) (i : Fin Config.replyEntries) (hs : List HostId) (s : State) :
    HostIdle h s (offerEntryTo i hs s) := by
  induction hs generalizing s with
  | nil => exact fun c => ⟨c, rfl⟩
  | cons k hs ih =>
    intro c
    unfold offerEntryTo
    split
    · next hm =>
      have hne : h ≠ k := by
        intro e; subst e; rw [c] at hm; cases hm
      have a := attempt_other k h (some i) s hne
      dsimp only
      split
      · have b := ih (attempt k (some i) s) (by rw [a.1]; exact c)
        exact ⟨b.1, b.2.trans a.2⟩
      · exact ⟨a.1.trans c, a.2⟩
    · exact ih s c

theorem idle_offerPlaceTo (h : HostId) (g : TargetId) (hs : List HostId) (s : State) :
    HostIdle h s (offerPlaceTo g hs s) := by
  induction hs generalizing s with
  | nil => exact fun c => ⟨c, rfl⟩
  | cons k hs ih =>
    intro c
    unfold offerPlaceTo
    split
    · next hm =>
      have hne : h ≠ k := by
        intro e; subst e; rw [c] at hm; simp [WaitMark.clear] at hm
      have a := attempt_other k h none s hne
      dsimp only
      split
      · exact ⟨a.1.trans c, a.2⟩
      · have b := ih (attempt k none s) (by rw [a.1]; exact c)
        exact ⟨b.1, b.2.trans a.2⟩
    · exact ih s c

theorem idle_offerPlaces (h : HostId) (g : TargetId) (n : Nat) (s : State) : HostIdle h s (offerPlaces g n s) := by
  induction n generalizing s with
  | zero => exact fun c => ⟨c, rfl⟩
  | succ n ih => exact (idle_offerPlaceTo _ _ _ _).trans (ih _)

/-- The offers of an event leave a host alone that does not wait. -/
theorem idle_offerFreed (h : HostId) (before s : State) : HostIdle h s (offerFreed before s) := by
  unfold offerFreed
  refine HostIdle.trans (foldl_rel (R := HostIdle h) (fun _ c => ⟨c, rfl⟩) (fun _ _ _ => HostIdle.trans)
    (fun s' i => offerEntry i s') (fun b a => idle_offerEntryTo _ _ _ _) (freedEntries before s) s) ?_
  exact foldl_rel (R := HostIdle h) (fun _ c => ⟨c, rfl⟩) (fun _ _ _ => HostIdle.trans) _
    (fun b a => idle_offerPlaces _ _ _ _) _ _

/-! ### Offers as the hand-out of what an event frees -/

theorem turnsAfter_eq (h : HostId) : turnsAfter h = hostsAfter h := by cases h <;> rfl

theorem handedTo_offerEntryTo (i : Fin Config.replyEntries) (hs : List HostId) (s : State) :
    HandedTo (.entry i) hs s (offerEntryTo i hs s) := by
  induction hs generalizing s with
  | nil => rfl
  | cons h hs ih =>
    unfold offerEntryTo
    by_cases w : (s.mark h).entry = true
    · rw [if_pos w]
      refine ⟨fun n => absurd (n.symm.trans w) (by decide), fun _ => ?_⟩
      by_cases f : ((attempt h (some i) s).entry i).isFree = true
      · refine ⟨fun k => absurd ((isFree_iff _).1 f) k, fun _ => ?_⟩
        dsimp only
        rw [if_pos f]
        exact ih _
      · refine ⟨fun _ => ?_, fun k => absurd (fun e => f ((isFree_iff _).2 e)) k⟩
        dsimp only
        rw [if_neg f]
        rfl
    · rw [if_neg w]
      exact ⟨fun _ => ih s, fun k => absurd k w⟩

theorem handedTo_offerPlaceTo (g : TargetId) (hs : List HostId) (s : State) :
    HandedTo (.place g) hs s (offerPlaceTo g hs s) := by
  induction hs generalizing s with
  | nil => rfl
  | cons h hs ih =>
    unfold offerPlaceTo
    by_cases w : (s.mark h).places.get g = true
    · rw [if_pos w]
      refine ⟨fun n => absurd (n.symm.trans w) (by decide), fun _ => ?_⟩
      by_cases f : (s.egress g).length < ((attempt h none s).egress g).length
      · refine ⟨fun _ => ?_, fun k => absurd f k⟩
        dsimp only
        rw [if_pos f]
        rfl
      · refine ⟨fun k => absurd k f, fun _ => ?_⟩
        dsimp only
        rw [if_neg f]
        exact ih _
    · rw [if_neg w]
      exact ⟨fun _ => ih s, fun k => absurd k w⟩

theorem HandedOut.append {xs ys : List Freed} {s t u : State} (a : HandedOut xs s t) (b : HandedOut ys t u) :
    HandedOut (xs ++ ys) s u := by
  induction xs generalizing s with
  | nil => cases a; exact b
  | cons x xs ih =>
    obtain ⟨v, hv, h⟩ := a
    exact ⟨v, hv, ih h⟩

theorem handedOut_entries (is : List (Fin Config.replyEntries)) (s : State) :
    HandedOut (is.map .entry) s (is.foldl (fun s' i => offerEntry i s') s) := by
  induction is generalizing s with
  | nil => rfl
  | cons i is ih =>
    refine ⟨offerEntry i s, ?_, ih _⟩
    rw [turnsAfter_eq]
    exact handedTo_offerEntryTo _ _ _

theorem handedOut_places (g : TargetId) (n : Nat) (s : State) :
    HandedOut (List.replicate n (.place g)) s (offerPlaces g n s) := by
  induction n generalizing s with
  | zero => rfl
  | succ n ih =>
    refine ⟨offerPlace g s, ?_, ih _⟩
    rw [turnsAfter_eq]
    exact handedTo_offerPlaceTo _ _ _

theorem handedOut_queues (n : TargetId → Nat) (gs : List TargetId) (s : State) :
    HandedOut (gs.flatMap fun g => List.replicate (n g) (.place g)) s (gs.foldl (fun s' g => offerPlaces g (n g) s') s) := by
  induction gs generalizing s with
  | nil => rfl
  | cons g gs ih => exact (handedOut_places g (n g) s).append (ih _)

/-- The offers of an event hand out, in their order, what the event has freed (R46, R47). -/
theorem handedOut_offerFreed (before s : State) : HandedOut (freedBy before s) s (offerFreed before s) :=
  (handedOut_entries (freedEntries before s) s).append (handedOut_queues (freedPlaces before s) TargetId.all _)

/-- The end of an event lets nothing follow but a NOTICE and a notification POST. -/
theorem noticesFollow_notify (before : State) (prompt : Option Port) (s : State) : NoticesFollow s (notify before prompt s) := by
  refine ⟨notify_noticesOnly before prompt s, ?_⟩
  conv_lhs => rw [notify_frame]
  rw [notify_events]

/-- The offers and the end of an event together. -/
theorem handOut_notify (before : State) (prompt : Option Port) (s : State) :
    HandOut before s (notify before prompt (offerFreed before s)) :=
  ⟨_, handedOut_offerFreed before s, noticesFollow_notify _ _ _⟩

/-- An attempt clears the mark first, so that it is the same whether or not the host waited (R40). -/
theorem attempt_setMark (h : HostId) (o : Option (Fin Config.replyEntries)) (s : State) :
    attempt h o (s.setMark h .clear) = attempt h o s := by
  have e : (s.setMark h .clear).setMark h .clear = s.setMark h .clear := by cases h <;> rfl
  unfold attempt
  rw [e]

end Sys2Proof.Machine
end

