-- ==== Sys2Proof/Laws/Drains.lean ====
section
/-! SUPPORT. What entries leaving WAITING, lost POSTs, ending orders, ending drains and the tail of an event can do
(chapters 3, 4 and 6), once for each operation. -/

namespace Sys2Proof.Machine

/-! ### Counts -/

/-- A count that falls changes the directory alone: no window, no generation, not the pool, not the fallback setting. -/
structure CountFalls (s t : State) : Prop where
  windows : WindowsKept s t
  pool : t.dir.poolFree = s.dir.poolFree
  fallback : t.dir.fallback = s.dir.fallback
  rest : t = { s with dir := t.dir }

theorem lowerCount_spec (r : Route) (s : State) : CountFalls s (lowerCount r s) ∧ CountChanges r (· - 1) s (lowerCount r s) := by
  cases r with
  | window h =>
    refine ⟨⟨fun i => ?_, rfl, rfl, rfl⟩, rfl⟩
    by_cases e : i = h.slot
    · subst e; simp [lowerCount]
    · simp only [lowerCount]
      rw [State.setSlot_slot_ne _ _ _ e]; exact ⟨rfl, rfl⟩
  | fallback => exact ⟨⟨fun _ => ⟨rfl, rfl⟩, rfl, rfl, rfl⟩, rfl⟩

theorem lowerCountOf_spec (pkt : EgressPacket) (s : State) : CountFalls s (lowerCountOf pkt s) := by
  cases pkt with
  | post r _ _ _ => exact (lowerCount_spec r s).1
  | fetch _ _ _ _ => exact ⟨fun _ => ⟨rfl, rfl⟩, rfl, rfl, rfl⟩

/-! ### Entries that leave WAITING, and lost POSTs -/

/-- All that the removal of traffic can change: counts, entries, egress queues, tails of host return queues, flags. -/
structure TrafficEnds (s t : State) : Prop where
  ctl : t.ctl = s.ctl
  fwd : t.fwd = s.fwd
  eng : t.eng = s.eng
  pending : t.pending = s.pending
  sent : t.sent = s.sent
  windows : WindowsKept s t
  pool : t.dir.poolFree = s.dir.poolFree
  fallback : t.dir.fallback = s.dir.fallback
  position : t.table.position = s.table.position
  egress : ∀ g, (t.egress g).Sublist (s.egress g)
  returns : ∀ src, s.returns src <+: t.returns src
  mgmt : t.returns .mgmt = s.returns .mgmt
  ports : t.ports = { s.ports with egress := t.ports.egress, returns := t.ports.returns }
  shows : ∀ f p, FlagShows f p s → FlagShows f p t
  enabled : t.events.enabled = s.events.enabled
  noticeOwed : t.events.noticeOwed = s.events.noticeOwed
  notificationOwed : t.events.notificationOwed = s.events.notificationOwed
  setting : t.events.setting = s.events.setting

theorem TrafficEnds.refl (s : State) : TrafficEnds s s :=
  ⟨rfl, rfl, rfl, rfl, rfl, fun _ => ⟨rfl, rfl⟩, rfl, rfl, rfl, fun _ => List.Sublist.refl _, fun _ => List.prefix_rfl, rfl, rfl,
    fun _ _ h => h, rfl, rfl, rfl, rfl⟩

theorem TrafficEnds.trans {s t u : State} (a : TrafficEnds s t) (b : TrafficEnds t u) : TrafficEnds s u where
  ctl := b.ctl.trans a.ctl
  fwd := b.fwd.trans a.fwd
  eng := b.eng.trans a.eng
  pending := b.pending.trans a.pending
  sent := b.sent.trans a.sent
  windows i := ⟨(b.windows i).1.trans (a.windows i).1, (b.windows i).2.trans (a.windows i).2⟩
  pool := b.pool.trans a.pool
  fallback := b.fallback.trans a.fallback
  position := b.position.trans a.position
  egress g := (b.egress g).trans (a.egress g)
  returns src := (a.returns src).trans (b.returns src)
  mgmt := b.mgmt.trans a.mgmt
  ports := by rw [b.ports, a.ports]
  shows f p h := b.shows f p (a.shows f p h)
  enabled := b.enabled.trans a.enabled
  noticeOwed := b.noticeOwed.trans a.noticeOwed
  notificationOwed := b.notificationOwed.trans a.notificationOwed
  setting := b.setting.trans a.setting

theorem CountFalls.ends {s t : State} (h : CountFalls s t) : TrafficEnds s t := by
  obtain ⟨w, p, f, e⟩ := h
  have o : t.ctl = s.ctl ∧ t.fwd = s.fwd ∧ t.eng = s.eng ∧ t.pending = s.pending ∧ t.sent = s.sent ∧ t.table = s.table ∧
      t.ports = s.ports ∧ t.events = s.events := by rw [e]; exact ⟨rfl, rfl, rfl, rfl, rfl, rfl, rfl, rfl⟩
  obtain ⟨o1, o2, o3, o4, o5, o6, o7, o8⟩ := o
  refine ⟨o1, o2, o3, o4, o5, w, p, f, by rw [o6], fun g => ?_, fun src => ?_, ?_, by rw [o7], fun _ _ h => ?_, by rw [o8],
    by rw [o8], by rw [o8], by rw [o8]⟩
  · unfold State.egress; rw [o7]
  · unfold State.returns; rw [o7]
  · unfold State.returns; rw [o7]
  · unfold FlagShows at *; rw [o8]; exact h

theorem ends_setEntry (i : Fin Config.replyEntries) (x : Entry) (s : State) : TrafficEnds s (s.setEntry i x) :=
  { TrafficEnds.refl s with }

theorem ends_setFlag (f : Flag) (p : Port) (s : State) : TrafficEnds s (setFlag f p s) :=
  { TrafficEnds.refl s with shows := fun _ _ h => shows_raise f (portMask p) s h }

theorem ends_filterEgress (g : TargetId) (keep : EgressPacket → Bool) (s : State) :
    TrafficEnds s (s.setEgress g ((s.egress g).filter keep)) := by
  refine { TrafficEnds.refl s with egress := fun k => ?_, ports := rfl }
  by_cases e : k = g
  · subst e; rw [State.setEgress_egress_self]; exact List.filter_sublist
  · rw [State.setEgress_egress_ne _ _ _ e]

theorem ends_removeFetch (g : TargetId) (i : Fin Config.replyEntries) (s : State) : TrafficEnds s (removeFetch g i s) :=
  ends_filterEgress g _ s

theorem ends_pushReturn (h : HostId) (pkt : ReturnPacket) (s : State) : TrafficEnds s (pushReturn (.host h) pkt s) := by
  have m := moves_pushReturn h pkt s
  exact { TrafficEnds.refl s with returns := m.returns, mgmt := m.mgmt, ports := rfl }

/-- An entry that is WAITING, leaving it: the one case in which the operation acts (R61, R68). -/
theorem leaveWaiting_waiting {s : State} {i : Fin Config.replyEntries} {w : Waiting} (h : (s.entry i).state = .waiting w)
    (st : Status) (d : List Byte) :
    leaveWaiting i st d s =
      if w.orphan then freeEntry i (lowerCount w.route (removeFetch w.target i s))
      else answerEntry i ⟨w.host, w.tag, w.session, some (w.route, w.target), st, d⟩
        (lowerCount w.route (removeFetch w.target i s)) := by
  unfold leaveWaiting
  rw [h]

theorem leaveWaiting_other {s : State} {i : Fin Config.replyEntries} (h : ∀ w, (s.entry i).state ≠ .waiting w) (st : Status)
    (d : List Byte) : leaveWaiting i st d s = s := by
  unfold leaveWaiting
  split
  · next w e => exact absurd e (h w)
  · rfl

theorem ends_leaveWaiting (i : Fin Config.replyEntries) (st : Status) (d : List Byte) (s : State) :
    TrafficEnds s (leaveWaiting i st d s) := by
  unfold leaveWaiting
  split
  · next w _ =>
    have a : TrafficEnds s (lowerCount w.route (removeFetch w.target i s)) :=
      (ends_removeFetch _ _ _).trans (lowerCount_spec _ _).1.ends
    dsimp only
    split
    · exact a.trans (ends_setEntry _ _ _)
    · exact (a.trans (ends_setEntry _ _ _)).trans (ends_pushReturn _ _ _)
  · exact TrafficEnds.refl s

/-- Everything that ending many waits at once can do. -/
theorem ends_leaveWaitingAll (picks : Waiting → Bool) (st : Status) (s : State) :
    TrafficEnds s (leaveWaitingAll picks st s) := by
  unfold leaveWaitingAll
  refine foldl_rel (R := TrafficEnds) TrafficEnds.refl (fun _ _ _ => TrafficEnds.trans) _ (fun b i => ?_) _ _
  split
  · split
    · exact ends_leaveWaiting _ _ _ _
    · exact TrafficEnds.refl b
  · exact TrafficEnds.refl b

theorem ends_removePosts (picks : EgressPacket → Bool) (g : TargetId) (s : State) : TrafficEnds s (removePosts picks g s) := by
  unfold removePosts
  exact (ends_filterEgress g _ s).trans
    (foldl_rel (R := TrafficEnds) TrafficEnds.refl (fun _ _ _ => TrafficEnds.trans) _
      (fun b pkt => (lowerCountOf_spec pkt b).ends) _ _)

/-- Everything that losing POSTs of a queue can do. -/
theorem ends_losePosts (picks : EgressPacket → Bool) (g : TargetId) (s : State) : TrafficEnds s (losePosts picks g s) := by
  unfold losePosts
  split
  · exact (ends_removePosts _ _ _).trans (ends_setFlag _ _ _)
  · exact TrafficEnds.refl s

/-- Everything that forced removal can do. -/
theorem ends_forceRemoval (h : Handle) (s : State) : TrafficEnds s (forceRemoval h s) := by
  unfold forceRemoval
  exact (ends_leaveWaitingAll _ _ _).trans
    (foldl_rel (R := TrafficEnds) TrafficEnds.refl (fun _ _ _ => TrafficEnds.trans) _ (fun b g => ends_losePosts _ g b) _ _)

/-! ### Drains that end -/

/-- All that the end of drains can change: windows, generations and the pool, the drain list, order queues, and the tails of
return queues. -/
structure DrainsEnd (s t : State) : Prop where
  counts : ∀ i, (t.slot i).count = (s.slot i).count
  returns : ∀ src, s.returns src <+: t.returns src
  drains : t.eng.drains.Sublist s.eng.drains
  rest : t = { s with
    dir := { t.dir with fallback := s.dir.fallback, fallbackCount := s.dir.fallbackCount }
    eng := { s.eng with orders := t.eng.orders, drains := t.eng.drains }
    ports := { s.ports with returns := t.ports.returns } }

theorem DrainsEnd.refl (s : State) : DrainsEnd s s := ⟨fun _ => rfl, fun _ => List.prefix_rfl, List.Sublist.refl _, rfl⟩

theorem DrainsEnd.trans {s t u : State} (a : DrainsEnd s t) (b : DrainsEnd t u) : DrainsEnd s u where
  counts i := (b.counts i).trans (a.counts i)
  returns src := (a.returns src).trans (b.returns src)
  drains := b.drains.trans a.drains
  rest := by rw [b.rest, a.rest]

theorem drainsEnd_setSlot (i : Fin Config.slots) (x : Slot) (s : State) (h : x.count = (s.slot i).count) :
    DrainsEnd s (s.setSlot i x) := by
  refine ⟨fun k => ?_, fun _ => List.prefix_rfl, List.Sublist.refl _, rfl⟩
  by_cases e : k = i
  · subst e; rw [State.setSlot_slot_self]; exact h
  · rw [State.setSlot_slot_ne _ _ _ e]

theorem drainsEnd_setWindow (i : Fin Config.slots) (w : Window) (s : State) : DrainsEnd s (setWindow i w s) :=
  drainsEnd_setSlot i { s.slot i with window := some w } s rfl

theorem drainsEnd_setPoolFree (n : Nat) (s : State) : DrainsEnd s (s.setPoolFree n) :=
  ⟨fun _ => rfl, fun _ => List.prefix_rfl, List.Sublist.refl _, rfl⟩

theorem drainsEnd_freeSlot (i : Fin Config.slots) (s : State) : DrainsEnd s (freeSlot i s) := by
  unfold freeSlot
  split
  · exact DrainsEnd.trans (drainsEnd_setSlot i { s.slot i with generation := (s.slot i).generation + 1, window := none } s rfl)
      (drainsEnd_setPoolFree _ _)
  · exact DrainsEnd.refl s

theorem drainsEnd_applyChange (i : Fin Config.slots) (c : PendingChange) (w : Window) (s : State) :
    DrainsEnd s (applyChange i c w s) := by
  cases c with
  | modify f => exact drainsEnd_setWindow i _ s
  | attach r => exact drainsEnd_setWindow i _ s
  | detach k => exact (drainsEnd_setWindow i _ s).trans (drainsEnd_setPoolFree _ _)

/-- What a change that takes effect leaves of its slot (R13, R112, R114, R123). -/
theorem applyChange_slot (i : Fin Config.slots) (c : PendingChange) (w : Window) (s : State) :
    (applyChange i c w s).slot i = { s.slot i with window := some (changed c w) } := by
  cases c with
  | modify f => exact State.setSlot_slot_self ..
  | attach r => exact State.setSlot_slot_self ..
  | detach k => exact State.setSlot_slot_self ..

theorem drainsEnd_carryOutPurpose (i : Fin Config.slots) (s : State) : DrainsEnd s (carryOutPurpose i s) := by
  unfold carryOutPurpose
  split
  · split
    · exact drainsEnd_freeSlot i s
    · exact drainsEnd_applyChange _ _ _ _
    · exact DrainsEnd.refl s
  · exact DrainsEnd.refl s

theorem drainsEnd_removeJob (i : Fin Config.slots) (s : State) : DrainsEnd s (removeJob i s) :=
  ⟨fun _ => rfl, fun _ => List.prefix_rfl, List.filter_sublist, rfl⟩

theorem drainsEnd_closeOrder (src : Source) (i : Fin Config.slots) (st : Status) (s : State) :
    DrainsEnd s (closeOrder src i st s) := by
  unfold closeOrder
  split
  · split
    · exact ⟨fun _ => rfl, fun _ => List.prefix_rfl, List.Sublist.refl _, rfl⟩
    · refine ⟨fun _ => rfl, fun k => ?_, List.Sublist.refl _, rfl⟩
      unfold pushReturn
      by_cases e : k = src
      · subst e; rw [State.setReturns_returns_self]; exact List.prefix_append _ _
      · rw [State.setReturns_returns_ne _ _ _ e]; exact List.prefix_rfl
  · exact DrainsEnd.refl s

theorem drainsEnd_completeJob (j : DrainJob) (s : State) : DrainsEnd s (completeJob j s) :=
  ((drainsEnd_carryOutPurpose _ _).trans (drainsEnd_removeJob _ _)).trans (drainsEnd_closeOrder _ _ _ _)

/-- Everything that the completions of an event can do. -/
theorem drainsEnd_completeDrains (s : State) : DrainsEnd s (completeDrains s) := by
  unfold completeDrains
  refine foldl_rel (R := DrainsEnd) DrainsEnd.refl (fun _ _ _ => DrainsEnd.trans) _ (fun b j => ?_) _ _
  split
  · exact drainsEnd_completeJob j b
  · exact DrainsEnd.refl b

theorem completeDrains_idle (s : State) (h : NoDrains s) : completeDrains s = s := by
  unfold completeDrains
  rw [h]
  rfl

/-- While every job's window has traffic in flight, no drain completes. -/
theorem completeDrains_busy (s : State) (h : ∀ j ∈ s.eng.drains, (s.slot j.handle.slot).count ≠ 0) : completeDrains s = s := by
  unfold completeDrains
  have k : ∀ l : List DrainJob, (∀ j ∈ l, (s.slot j.handle.slot).count ≠ 0) →
      l.foldl (fun s' j => if (s'.slot j.handle.slot).count = 0 then completeJob j s' else s') s = s := by
    intro l
    induction l with
    | nil => intro _; rfl
    | cons j l ih =>
      intro hl
      rw [List.foldl_cons, if_neg (hl j (List.mem_cons_self ..))]
      exact ih fun x hx => hl x (List.mem_cons_of_mem _ hx)
  exact k _ h

/-! ### The tail of an event -/

/-- With no drain and no host waiting, the tail of an event does nothing. -/
theorem settle_idle (before s : State) (hd : NoDrains s) (hw : NoHostWaits s) : settle before s = s := by
  unfold settle
  rw [completeDrains_idle s hd, offerFreed_idle before s hw]

/-- Where no drain completes, the tail and the end of an event hand out what it has freed. -/
theorem handOut_settle (before : State) (prompt : Option Port) (s : State) (h : NoDrainEnds s) :
    HandOut before s (notify before prompt (settle before s)) := by
  unfold settle
  rw [completeDrains_busy s h]
  exact handOut_notify before prompt s

end Sys2Proof.Machine
end

