-- ==== Sys2Proof/Laws/Orders.lean ====
section
/-! SUPPORT. The arbiter, the decision of an order and its reply, and the eight checks (chapter 4), once for every order. -/

namespace Sys2Proof.Machine

/-! ### Codes -/

@[simp] theorem orderOfCode_orderCode (o : OrderName) : orderOfCode (orderCode o) = some o := by cases o <;> decide

/-- A command decides the orders of its own code. -/
theorem isCode_orderCode (o : OrderName) : isCode o (orderCode o) = true := by
  unfold isCode
  rw [orderOfCode_orderCode]
  exact beq_self_eq_true _

/-! ### The order served -/

/-- What the arbiter serves is the oldest QUEUED entry of its source. -/
theorem nextOrder_spec {s : State} {src : Source} {e : OrderEntry} (h : nextOrder s = some (src, e)) :
    ∃ older newer, (∀ x ∈ older, x.state ≠ .queued) ∧ e.state = .queued ∧ s.orders src = older ++ e :: newer := by
  unfold nextOrder at h
  obtain ⟨src', _, h'⟩ := List.exists_of_findSome?_eq_some h
  obtain ⟨e', he, hp⟩ := Option.map_eq_some_iff.1 h'
  cases hp
  unfold oldestQueued at he
  obtain ⟨hq, older, newer, hl, hn⟩ := List.find?_eq_some_iff_append.1 he
  refine ⟨older, newer, fun x hx hs => ?_, ?_, hl⟩
  · have n := hn x hx
    simp [isQueued, hs] at n
  · simpa [isQueued] using hq

/-- Replacing the first entry that a test picks, where it is known. -/
theorem updateFirst_append {α : Type} (picks : α → Bool) (f : α → α) (older : List α) (x : α) (newer : List α)
    (ho : ∀ y ∈ older, picks y = false) (hx : picks x = true) :
    updateFirst picks f (older ++ x :: newer) = older ++ f x :: newer := by
  induction older with
  | nil => simp [updateFirst, hx]
  | cons y ys ih =>
    rw [List.cons_append, updateFirst, ho y (List.mem_cons_self ..), if_neg (by simp), List.cons_append,
      ih (fun z hz => ho z (List.mem_cons_of_mem _ hz))]

theorem updateQueued {s : State} {src : Source} {e : OrderEntry} (f : OrderEntry → OrderEntry)
    (h : nextOrder s = some (src, e)) :
    ∃ older newer, (∀ x ∈ older, x.state ≠ .queued) ∧ s.orders src = older ++ e :: newer ∧
      updateFirst isQueued f (s.orders src) = older ++ f e :: newer := by
  obtain ⟨older, newer, ho, he, hl⟩ := nextOrder_spec h
  refine ⟨older, newer, ho, hl, ?_⟩
  rw [hl]
  refine updateFirst_append _ _ _ _ _ (fun y hy => ?_) ?_
  · simpa [isQueued] using ho y hy
  · simpa [isQueued] using he

/-- The answer to the order served, given in any state with the same order queues and return queues. -/
theorem orderAnswered_answerOrder {s u : State} {src : Source} {e : OrderEntry} {st : Status} {rs : List Byte}
    (h : nextOrder s = some (src, e)) (ho : u.eng.orders = s.eng.orders) (hr : u.ports.returns = s.ports.returns)
    (hp : u.eng.position = src) : OrderAnswered src e st rs s (answerOrder src e st rs u) := by
  obtain ⟨older, newer, hq, hl, hu⟩ := updateQueued (fun e => { e with state := .answered }) h
  have eo : ∀ k, u.orders k = s.orders k := fun k => by unfold State.orders; rw [ho]
  have er : ∀ k, u.returns k = s.returns k := fun k => by unfold State.returns; rw [hr]
  refine ⟨hp, ?_, ⟨older, newer, hq, hl, ?_⟩, fun k hk => ⟨?_, ?_⟩⟩
  · unfold answerOrder pushReturn
    rw [State.setReturns_returns_self, State.setOrders_returns, er]
  · unfold answerOrder pushReturn
    rw [State.setReturns_orders, State.setOrders_orders_self, eo, hu]
  · unfold answerOrder pushReturn
    rw [State.setReturns_orders, State.setOrders_orders_ne _ _ _ hk, eo]
  · unfold answerOrder pushReturn
    rw [State.setReturns_returns_ne _ _ _ hk, State.setOrders_returns, er]

/-- The entry of the order served becomes TAKEN, in any state with the same queues. -/
theorem orderTaken_takeOrder {s u : State} {src : Source} {e : OrderEntry} {i : Fin Config.slots}
    (h : nextOrder s = some (src, e)) (ho : u.eng.orders = s.eng.orders) (hr : u.ports.returns = s.ports.returns)
    (hp : u.eng.position = src) : OrderTaken src e i s (takeOrder src i u) := by
  obtain ⟨older, newer, hq, hl, hu⟩ := updateQueued (fun e => { e with state := .taken i }) h
  have eo : ∀ k, u.orders k = s.orders k := fun k => by unfold State.orders; rw [ho]
  have er : ∀ k, u.returns k = s.returns k := fun k => by unfold State.returns; rw [hr]
  refine ⟨hp, er, ⟨older, newer, hq, hl, ?_⟩, fun k hk => ?_⟩
  · unfold takeOrder
    rw [State.setOrders_orders_self, eo, hu]
  · unfold takeOrder
    rw [State.setOrders_orders_ne _ _ _ hk, eo]

/-! ### The decision -/

/-- A decision whose order is refused. -/
theorem decideOrder_refused {s : State} {src : Source} {e : OrderEntry} {st : Status} {takes : Byte → Bool}
    {check : Source → OrderEntry → State → Option Status} {carry : Source → OrderEntry → State → State}
    (hr : s.ctl.phase = .running) (hn : nextOrder s = some (src, e)) (ht : takes e.code = true)
    (hc : check src e (s.setArbiter src) = some st) :
    decideOrder takes check carry s = answerOrder src e st [] (s.setArbiter src) := by
  unfold decideOrder
  have r : isRunning s = true := by unfold isRunning; rw [hr]; rfl
  rw [if_pos r, hn]
  dsimp only
  rw [if_pos ht, hc]

/-- A decision whose order passes every check. -/
theorem decideOrder_passed {s : State} {src : Source} {e : OrderEntry} {takes : Byte → Bool}
    {check : Source → OrderEntry → State → Option Status} {carry : Source → OrderEntry → State → State}
    (hr : s.ctl.phase = .running) (hn : nextOrder s = some (src, e)) (ht : takes e.code = true)
    (hc : check src e (s.setArbiter src) = none) :
    decideOrder takes check carry s = carry src e (s.setArbiter src) := by
  unfold decideOrder
  have r : isRunning s = true := by unfold isRunning; rw [hr]; rfl
  rw [if_pos r, hn]
  dsimp only
  rw [if_pos ht, hc]

/-- The reply of a refused order, and nothing else, differs. -/
theorem refused_answer {s : State} {src : Source} {e : OrderEntry} (st : Status) (h : nextOrder s = some (src, e)) :
    OrderAnswered src e st [] s (answerOrder src e st [] (s.setArbiter src)) ∧
      AnswerFrame s (answerOrder src e st [] (s.setArbiter src)) :=
  ⟨orderAnswered_answerOrder h rfl rfl rfl, rfl⟩

/-! ### The checks -/

@[simp] theorem firstRefusal_nil : firstRefusal [] = none := rfl

@[simp] theorem firstRefusal_none (l : List (Option Status)) : firstRefusal (none :: l) = firstRefusal l := rfl

@[simp] theorem firstRefusal_some (st : Status) (l : List (Option Status)) : firstRefusal (some st :: l) = some st := rfl

@[simp] theorem refuseIf_true (st : Status) : refuseIf true st = some st := rfl

@[simp] theorem refuseIf_false (st : Status) : refuseIf false st = none := rfl

/-- The first check passes for a source that may send the order (R82). -/
theorem rightsCheck_pass {s : State} {src : Source} {o : OrderName} (h : MayOrder s src o) : rightsCheck o src s = none := by
  cases src with
  | mgmt => rfl
  | host k =>
    unfold MayOrder at h
    unfold rightsCheck
    cases hc : o.cls <;> rw [hc] at h
    · obtain ⟨a, b⟩ := h
      have b' : (s.eng.rights.get k == Rights.none) = false := by simpa using b
      simp only [a, b']
      rfl
    · obtain ⟨a, b⟩ := h
      simp only [a, b]
      rfl
    · cases h

/-- The second check passes for an order that is not changing, or on a part that is not frozen (R83). -/
theorem freezeCheck_pass {s : State} {o : OrderName} (h : o.changes = true → s.eng.frozen = false) : freezeCheck o s = none := by
  unfold freezeCheck
  cases hc : o.changes
  · rfl
  · rw [h hc]; rfl

/-- A handle that names a window resolves to it (R1). -/
theorem resolve_names {s : State} {b : List Byte} {i : Fin Config.slots} {w : Window} (h : NamesWindow s b i w) :
    resolve s b = .found i w := by
  obtain ⟨hi, hw, hg⟩ := h
  have e : slotNumber b = some i := by
    unfold slotNumber slotOf
    rw [dif_pos (by rw [hi]; exact i.isLt)]
    exact congrArg some (Fin.ext hi)
  unfold resolve
  rw [e]
  dsimp only
  rw [hw]
  dsimp only
  exact if_pos hg

theorem ownerCheck_pass {src : Source} {w : Window} (h : Owns src w) : ownerCheck src w = none := by
  cases src with
  | mgmt => rfl
  | host k =>
    rcases h with h | h
    · cases h
    · unfold ownerCheck
      rw [h]
      simp

/-- An order that names a window and passes its first six checks comes to its own operand and resource checks. -/
theorem handleOrderChecks_found {s : State} {src : Source} {e : OrderEntry} {o : OrderName} {i : Fin Config.slots} {w : Window}
    {owned lockable : Bool} {operands resources : Fin Config.slots → Window → OrderEntry → State → Option Status}
    (hr : MayOrder s src o) (hf : o.changes = true → s.eng.frozen = false) (hn : NamesWindow s e.block i w)
    (ho : owned = true → Owns src w) (hl : lockable = true → w.locked = false) (hs : stateCheck o w = none) :
    handleOrderChecks o owned lockable operands resources src e s = firstRefusal [operands i w e s, resources i w e s] := by
  unfold handleOrderChecks
  rw [rightsCheck_pass hr, freezeCheck_pass hf, resolve_names hn]
  have a : (if owned = true then ownerCheck src w else none) = none := by
    cases owned
    · rfl
    · exact ownerCheck_pass (ho rfl)
  have b : (if lockable = true then lockCheck w else none) = none := by
    cases lockable
    · rfl
    · unfold lockCheck
      rw [if_pos rfl, hl rfl]; rfl
  dsimp only [handleCheck]
  rw [a, b, hs]
  simp only [firstRefusal_none]
  cases h : firstRefusal [operands i w e s, resources i w e s] <;> rfl

/-- An order that names no window and passes its first two checks comes to its own operand and resource checks. -/
theorem plainOrderChecks_rights {s : State} {src : Source} {e : OrderEntry} {o : OrderName}
    {operands resources : Source → OrderEntry → State → Option Status}
    (hr : MayOrder s src o) (hf : o.changes = true → s.eng.frozen = false) :
    plainOrderChecks o operands resources src e s = firstRefusal [operands src e s, resources src e s] := by
  unfold plainOrderChecks
  rw [rightsCheck_pass hr, freezeCheck_pass hf]
  rfl

end Sys2Proof.Machine
end

