-- ==== Sys2Proof/Laws/PerInstr.lean ====
section
/-! SUPPORT. One fact about every command as syntax: no word of the opcode table spells it, since the table gives its row no
bits (log 20). -/

namespace Sys2Proof.Laws.NoWord

/-- No word spells the command. -/
def Statement (i : Instr) : Prop := ∀ nbits w : Nat, decodeTableWord nbits w ≠ some i

theorem powerOn (resetHigh : Bool) : Statement (.powerOn resetHigh) := fun _ _ h => nomatch h

theorem pinReset : Statement (.pinReset) := fun _ _ h => nomatch h

theorem resetNRelease : Statement (.resetNRelease) := fun _ _ h => nomatch h

theorem startUpEnd : Statement (.startUpEnd) := fun _ _ h => nomatch h

theorem start (p : Port) (sym : Symbol) : Statement (.start p sym) := fun _ _ h => nomatch h

theorem partStartSent (p : Port) : Statement (.partStartSent p) := fun _ _ h => nomatch h

theorem stop (p : Port) (sym : Symbol) : Statement (.stop p sym) := fun _ _ h => nomatch h

theorem restart (p : Port) (sym : Symbol) : Statement (.restart p sym) := fun _ _ h => nomatch h

theorem credit (p : Port) (sym : Symbol) : Statement (.credit p sym) := fun _ _ h => nomatch h

theorem lossOfSignal (p : Port) : Statement (.lossOfSignal p) := fun _ _ h => nomatch h

theorem post (h : HostId) (f : Frame) : Statement (.post h f) := fun _ _ h => nomatch h

theorem fetch (h : HostId) (f : Frame) : Statement (.fetch h f) := fun _ _ h => nomatch h

theorem order (src : Source) (f : Frame) : Statement (.order src f) := fun _ _ h => nomatch h

theorem reply (t : TargetId) (f : Frame) : Statement (.reply t f) := fun _ _ h => nomatch h

theorem misdirectedPacket (p : Port) (kind : Byte) (f : Frame) : Statement (.misdirectedPacket p kind f) := fun _ _ h => nomatch h

theorem forwardAttempt (h : HostId) : Statement (.forwardAttempt h) := fun _ _ h => nomatch h

theorem delivery (t : TargetId) : Statement (.delivery t) := fun _ _ h => nomatch h

theorem returnQueueSending (src : Source) : Statement (.returnQueueSending src) := fun _ _ h => nomatch h

theorem replyTimerExpiry (n : Fin Config.replyEntries) : Statement (.replyTimerExpiry n) := fun _ _ h => nomatch h

theorem drainTimerExpiry (n : Fin Config.slots) : Statement (.drainTimerExpiry n) := fun _ _ h => nomatch h

theorem query : Statement (.query) := fun _ _ h => nomatch h

theorem find : Statement (.find) := fun _ _ h => nomatch h

theorem list : Statement (.list) := fun _ _ h => nomatch h

theorem readStatus : Statement (.readStatus) := fun _ _ h => nomatch h

theorem openWindow : Statement (.openWindow) := fun _ _ h => nomatch h

theorem activate : Statement (.activate) := fun _ _ h => nomatch h

theorem modify : Statement (.modify) := fun _ _ h => nomatch h

theorem retire : Statement (.retire) := fun _ _ h => nomatch h

theorem lock : Statement (.lock) := fun _ _ h => nomatch h

theorem attach : Statement (.attach) := fun _ _ h => nomatch h

theorem detach : Statement (.detach) := fun _ _ h => nomatch h

theorem setFallback : Statement (.setFallback) := fun _ _ h => nomatch h

theorem setRights : Statement (.setRights) := fun _ _ h => nomatch h

theorem freeze : Statement (.freeze) := fun _ _ h => nomatch h

theorem barPort : Statement (.barPort) := fun _ _ h => nomatch h

theorem enablePort : Statement (.enablePort) := fun _ _ h => nomatch h

theorem readEvents : Statement (.readEvents) := fun _ _ h => nomatch h

theorem clearEvents : Statement (.clearEvents) := fun _ _ h => nomatch h

theorem setEventEnables : Statement (.setEventEnables) := fun _ _ h => nomatch h

theorem setNotify : Statement (.setNotify) := fun _ _ h => nomatch h

theorem setTimers : Statement (.setTimers) := fun _ _ h => nomatch h

theorem resetPaths : Statement (.resetPaths) := fun _ _ h => nomatch h

theorem clearResetCause : Statement (.clearResetCause) := fun _ _ h => nomatch h

theorem unknownOrder : Statement (.unknownOrder) := fun _ _ h => nomatch h

theorem lossOfSupply : Statement (.lossOfSupply) := fun _ _ h => nomatch h

theorem malformedSymbol (p : Port) (bytes : List Byte) : Statement (.malformedSymbol p bytes) := fun _ _ h => nomatch h

end Sys2Proof.Laws.NoWord
end

