-- ==== Sys2Proof/Tests/Slice0.lean ====
section
/-! SUPPORT. Tests of the model, each on one small state: the checks of WellFormed, single events with results taken from the
spec, and for every statement with hypotheses a state and operands that meet them all. -/

namespace Sys2Proof.Tests

open Machine

set_option Elab.async false

/-! ### Small states -/

/-- All nine ports enabled, every link DOWN. -/
def running : State := { State.reset with ctl := ⟨.running, ⟨true, false, false⟩⟩ }

/-- All nine links UP, with five credits held toward every partner and nothing in the part. -/
def up : State :=
  { running with
    ports := { running.ports with
      link := .replicate .up, held := .replicate 5, grantedRequest := .replicate 8, grantedOrder := ⟨8, .replicate 4⟩ } }

/-- A window on the second granule, toward T0, for every host, of H0. -/
def window (st : WindowState) : Window := ⟨st, 0x1000, 0x1FFF, .t0, .readWrite, 15, .host .h0, false, []⟩

/-- Slot 0 holds the window, in a state and with a count. -/
def holding (st : WindowState) (count : Nat) : State := up.setSlot 0 ⟨0, count, some (window st)⟩

/-- A sealed frame of a kind. -/
def frame (kind : Byte) (length tag : BitVec 16) (status code : Byte) (a : Addr) (d : List Byte) : Frame :=
  sealFrame kind ⟨false, 0, length, tag, status, code, a, 0, d, 0⟩

/-- A block with some bytes set. -/
def block (xs : List (Nat × Byte)) : List Byte :=
  (List.range 64).map fun i => ((xs.find? fun x => x.1 == i).map Prod.snd).getD 0

/-- A source's queue holds one QUEUED order. -/
def asking (src : Source) (code : Byte) (b : List Byte) (s : State) : State :=
  s.setOrders src [⟨1, code, b, .queued, false⟩]

/-- The order that `asking` queues. -/
def asked (code : Byte) (b : List Byte) : OrderEntry := ⟨1, code, b, .queued, false⟩

/-- What an event answers next. -/
def after (c : Instr) (s : State) : State :=
  match exec c s with
  | .next t => t
  | _ => s

/-! ### WellFormed -/

theorem test_wf_refuses_taken_kind : WellFormed (.misdirectedPacket .mgmt kindOrder (frame kindOrder 0 0 0 1 0 [])) = false := by
  decide +kernel

theorem test_wf_refuses_good_symbol : WellFormed (.malformedSymbol .mgmt [4, 0, 0, 0, 0, 0, 0, 0]) = false := by decide

theorem test_wf_refuses_cut_payload : WellFormed (.post .h0 ⟨true, 0, 1, 0, 0, 0, 0, 0, [1], 0⟩) = false ∧
    WellFormed (.fetch .h0 ⟨true, 0, 1, 0, 0, 0, 0, 0, [1], 0⟩) = false ∧
    WellFormed (.order .mgmt ⟨true, 0, 1, 0, 0, 0, 0, 0, [1], 0⟩) = false ∧
    WellFormed (.reply .t0 ⟨true, 0, 1, 0, 0, 0, 0, 0, [1], 0⟩) = false := by decide

theorem test_wf_accepts : WellFormed (.misdirectedPacket .mgmt kindPost (frame kindPost 1 0 0 0 0 [7])) = true ∧
    WellFormed (.malformedSymbol .mgmt [5, 0, 0, 0, 0, 0, 0, 0]) = true ∧ WellFormed (.malformedSymbol .mgmt []) = true := by
  decide +kernel

theorem test_no_word_spells_a_command : decodeTableWord 16 0x1234 = none := rfl

/-! ### Wire forms -/

/-- R162's generator and preset on the nine digits, the published check of this code. -/
theorem test_check_value : crc16 [0x31, 0x32, 0x33, 0x34, 0x35, 0x36, 0x37, 0x38, 0x39] = 0x29B1 := by decide +kernel

/-- R173: a START with the grants 8, 4 and 0 carries them in 12 bits each. -/
theorem test_start_bytes : symbolBytes symStart (startArgs 8 4 0) = [0x01, 0x00, 0x80, 0x04, 0x00, 0x00] := by decide

/-- R55 and R164: index 3 and epoch 5 make the tag 00C5h. -/
theorem test_downstream_tag : downstreamTag 3 5 = 0x00C5 := by decide

/-- R165: the part's own packets carry the code for none, and a POST to a target its origin host's. -/
theorem test_origins : (ReturnPacket.reply 0 17 .timeout []).bytes.take 2 = [0x03, 0x0F] ∧
    (ReturnPacket.orderReply 1 0x04 .done []).bytes.take 2 = [0x05, 0x0F] ∧ (ReturnPacket.notice 1).bytes.take 2 = [0x06, 0x0F] ∧
    (ReturnPacket.notification 0 1).bytes.take 2 = [0x01, 0x0F] ∧
    (EgressPacket.post .fallback .h2 0 [7]).bytes.take 2 = [0x01, 0x02] := by decide +kernel

/-- R190: READ_STATUS right after power-on. -/
theorem test_status_bytes : (statusBytes State.reset).take 10 = [0x5A, 0x31, 0x04, 0x64, 1, 64, 96, 48, 0, 0] ∧
    (statusBytes State.reset).drop 37 = [0x01, 0x13, 0x88, 0x00, 0xC8, 0x0F] := by decide +kernel

/-! ### States that meet the invariants -/

/-- The WAITING fields of an entry, if it has them. -/
def waitingOf (e : Entry) : Option Waiting :=
  match e.state with
  | .waiting w => some w
  | _ => none

theorem waitingOf_mem {e : Entry} {w : Waiting} (h : e.state = .waiting w) : w ∈ waitingOf e := by
  unfold waitingOf; rw [h]; rfl

/-- The order code and pending record of the drain in `draining`. -/
def drainCode (retire : Bool) : Byte := if retire then 0x08 else 0x0A

/-- The window that drains: a RETIRE, or a pending attach of a TRANSLATE record. -/
def drainWindow (retire : Bool) : Window :=
  ⟨if retire then .drainRetire else .drainChange (.attach (.translate 0x9000)), 0x2000, 0x2FFF, .t1, .readWrite, 15, .host .h0,
    false, [.mirror .t3]⟩

/-- H0's order that waits for the drain: silent where the window retires. -/
def drainEntry (retire : Bool) : OrderEntry := ⟨9, drainCode retire, [], .taken 1, retire⟩

def drainJob (m : Mode) (retire : Bool) : DrainJob :=
  ⟨⟨1, 7⟩, if retire then .retire else .change, m, .host .h0, 9, drainCode retire, 200⟩

/-- Slot 1 holds a DRAINING window with one POST in T1's queue; slot 2 a locked LIVE one and slot 3 a STAGED one. -/
def draining (m : Mode) (retire : Bool) : State :=
  { up with
    dir := { up.dir with
      slots := ((up.dir.slots.set 1 ⟨7, 1, some (drainWindow retire)⟩).set 2
        ⟨0, 0, some { window .live with base := 0x4000, limit := 0x5FFF, locked := true }⟩).set 3
        ⟨0, 0, some { window .staged with base := 0x6000, limit := 0x6FFF, chain := [.guard [(.h1, .read)]] }⟩
      poolFree := if retire then 94 else 93 }
    eng := { up.eng with
      drains := [drainJob m retire]
      orders := up.eng.orders.set (.host .h0) [drainEntry retire] }
    ports := { up.ports with
      egress := up.ports.egress.set .t1 [.post (.window ⟨1, 7⟩) .h0 0x2000 [5]]
      grantedOrder := ⟨8, ⟨if retire then 4 else 3, 4, 4, 4⟩⟩ }
    pending := [.delivery .t1] }

/-- H0 has a FETCH forwarded and waiting, H1 a refused FETCH answered, H2 a FETCH in its ingress queue, M an order queued; H3
and T3 are DOWN. -/
def fetching : State :=
  { holding .live 1 with
    fwd := { up.fwd with ingress := up.fwd.ingress.set .h2 [.fetch 3 0x1000 4] }
    table := { up.table with
      entries := (up.table.entries.set 0 ⟨5, .waiting ⟨.h0, 17, 0, false, 4, .window ⟨0, 0⟩, .t0, 5000⟩⟩).set 1
        ⟨2, .answered ⟨.h1, 33, 0, none, .denied, []⟩⟩ }
    eng := { up.eng with orders := up.eng.orders.set .mgmt [asked 0x04 (block [])] }
    ports := { up.ports with
      link := (up.ports.link.set (.host .h3) .down).set (.target .t3) .answering
      grantedRequest := ⟨8, 8, 7, 0⟩, grantedOrder := ⟨7, ⟨4, 4, 4, 0⟩⟩
      egress := up.ports.egress.set .t0 [.fetch 0 5 0x1000 4]
      returns := up.ports.returns.set (.host .h1) [.reply 1 33 .denied []] }
    pending := [.forwardAttempt .h2] }

/-- Every window of `draining`. -/
theorem draining_windows (m : Mode) (r : Bool) : ∀ i, ∀ w ∈ ((draining m r).slot i).window,
    (i = 1 ∧ w = drainWindow r) ∨ (i = 2 ∧ w = { window .live with base := 0x4000, limit := 0x5FFF, locked := true }) ∨
      (i = 3 ∧ w = { window .staged with base := 0x6000, limit := 0x6FFF, chain := [.guard [(.h1, .read)]] }) := by
  cases m <;> cases r <;> decide +kernel

/-- No entry of `draining` is in use. -/
theorem draining_entries (m : Mode) (r : Bool) : ∀ i, ((draining m r).entry i).state = .free := by
  cases m <;> cases r <;> decide +kernel

theorem draining_poolBalanced (m : Mode) (r : Bool) : PoolBalanced (draining m r) := by
  have h : (draining m r).dir.poolFree + ((List.finRange Config.slots).map fun i => recordsOut ((draining m r).slot i)).sum =
    Config.poolRecords := by cases m <;> cases r <;> decide +kernel
  exact h

theorem draining_windowsFit (m : Mode) (r : Bool) : WindowsFit (draining m r) := by
  intro i w hw
  rcases draining_windows m r i w hw with ⟨-, rfl⟩ | ⟨-, rfl⟩ | ⟨-, rfl⟩
  · refine ⟨⟨by cases r <;> decide, by cases r <;> decide, by cases r <;> decide, by cases r <;> decide, ?_, ?_, ?_⟩, ?_⟩
    · intro b hb; simp [drainWindow] at hb
    · intro es he; simp [drainWindow] at he
    · intro t ht; simp only [drainWindow, List.mem_singleton] at ht; cases ht; cases r <;> decide
    · intro c hc
      cases r
      · cases hc
        refine ⟨by decide, by decide, by decide, by decide, ?_, ?_, ?_⟩
        · intro b hb
          simp only [changed, drainWindow, List.cons_append, List.nil_append, List.mem_cons, reduceCtorEq, ExtRecord.translate.injEq,
            List.not_mem_nil, or_false, false_or] at hb
          subst hb; decide
        · intro es he; simp [changed, drainWindow] at he
        · intro t ht
          simp only [changed, drainWindow, List.cons_append, List.nil_append, List.mem_cons, ExtRecord.mirror.injEq, reduceCtorEq,
            List.not_mem_nil, or_false] at ht
          subst ht; decide
      · cases hc
  · refine ⟨⟨by decide, by decide, by decide, by decide, ?_, ?_, ?_⟩, fun c hc => by cases hc⟩ <;>
      intro x hx <;> simp [window] at hx
  · refine ⟨⟨by decide, by decide, by decide, by decide, ?_, ?_, ?_⟩, fun c hc => by cases hc⟩
    · intro x hx; simp at hx
    · intro es he
      simp only [List.mem_singleton, ExtRecord.guard.injEq] at he
      subst he; decide
    · intro x hx; simp at hx

theorem draining_rangesDisjoint : RangesDisjoint (draining .force false) := by
  have key : ∀ i, ∀ p ∈ slotReserved ((draining .force false).slot i),
      (i = 1 ∧ p = ⟨0x2000, 0x2FFF⟩) ∨ (i = 2 ∧ p = ⟨0x4000, 0x5FFF⟩) ∨ (i = 3 ∧ p = ⟨0x6000, 0x6FFF⟩) := by decide +kernel
  rintro i j a ⟨p, hp, hp1, hp2⟩ ⟨q, hq, hq1, hq2⟩
  rcases key i p hp with ⟨rfl, rfl⟩ | ⟨rfl, rfl⟩ | ⟨rfl, rfl⟩ <;> rcases key j q hq with ⟨rfl, rfl⟩ | ⟨rfl, rfl⟩ | ⟨rfl, rfl⟩ <;>
    first | rfl | (exfalso; dsimp only at *; omega)

theorem draining_lockedLive (m : Mode) (r : Bool) : LockedLive (draining m r) := by
  intro i w hw hl
  rcases draining_windows m r i w hw with ⟨-, rfl⟩ | ⟨-, rfl⟩ | ⟨-, rfl⟩
  · cases r <;> cases hl
  · rfl
  · cases hl

theorem draining_follows (m : Mode) (r : Bool) : DrainsFollowWindows (draining m r) where
  bound := by cases m <;> cases r <;> decide
  distinct := by cases m <;> cases r <;> decide
  followed := by
    have h : ∀ i, ∀ w ∈ ((draining m r).slot i).window, isDraining w.state = true →
      ∃ j ∈ (draining m r).eng.drains, j.handle.slot = i := by cases m <;> cases r <;> decide +kernel
    exact h
  follows := by
    have h : ∀ j ∈ (draining m r).eng.drains, ∃ w, w ∈ ((draining m r).slot j.handle.slot).window ∧
      ((draining m r).slot j.handle.slot).generation = j.handle.generation ∧ drainPurpose w.state = some j.purpose := by
      intro j hj
      have e : j = drainJob m r := List.mem_singleton.1 hj
      subst e
      refine ⟨drainWindow r, ?_⟩
      cases m <;> cases r <;> decide +kernel
    exact h

theorem draining_taken (m : Mode) (r : Bool) : TakenFollowsDrains (draining m r) where
  held := by
    have h : ∀ j ∈ (draining m r).eng.drains, ∃ e ∈ (draining m r).orders j.source,
      e.state = .taken j.handle.slot ∧ e.sequence = j.sequence ∧ e.code = j.code := by cases m <;> cases r <;> decide +kernel
    exact h
  once := by
    intro src i
    rcases src with _ | h
    · exact Nat.zero_le 1
    · cases h
      · exact List.countP_le_length.trans (Nat.le_refl 1)
      all_goals exact Nat.zero_le 1
  holder := by
    intro src e he i hi
    have hs : src = .host .h0 ∧ e = drainEntry r := by
      rcases src with _ | h
      · cases he
      · cases h
        · exact ⟨rfl, List.mem_singleton.1 he⟩
        all_goals cases he
    obtain ⟨rfl, rfl⟩ := hs
    cases hi
    exact ⟨drainJob m r, List.mem_singleton_self _, rfl, rfl⟩

theorem draining_hasTraffic (m : Mode) (r : Bool) : DrainingHasTraffic (draining m r) := by
  have h : ∀ i, ∀ w ∈ ((draining m r).slot i).window, isDraining w.state = true → ((draining m r).slot i).count ≠ 0 := by
    cases m <;> cases r <;> decide +kernel
  exact h

theorem draining_egress (m : Mode) (r : Bool) : EgressFollowsEntries (draining m r) where
  waiting := by
    intro t i ep a n h
    cases t
    · cases h
    · rcases List.mem_singleton.1 h with h; cases h
    · cases h
    · cases h
  once := by
    intro t i
    cases t
    · exact Nat.zero_le 1
    · exact List.countP_le_length.trans (Nat.le_refl 1)
    · exact Nat.zero_le 1
    · exact Nat.zero_le 1

theorem draining_countsMatch (m : Mode) (r : Bool) : CountsMatch (draining m r) where
  windows := by cases m <;> cases r <;> decide +kernel
  fallback := by cases m <;> cases r <;> decide +kernel
  current := by
    rintro h (⟨i, w, hw, -⟩ | ⟨t, pkt, hp, hn⟩)
    · rw [draining_entries] at hw; cases hw
    · cases t
      · cases hp
      · cases List.mem_singleton.1 hp; cases hn; cases m <;> cases r <;> rfl
      · cases hp
      · cases hp
  free := by cases m <;> cases r <;> decide +kernel
  staged := by
    have h : ∀ i, ∀ w ∈ ((draining m r).slot i).window, w.state = .staged → ((draining m r).slot i).count = 0 := by
      cases m <;> cases r <;> decide +kernel
    exact h

/-- The entries of `fetching` that are in use. -/
theorem fetching_waits : ∀ i, ∀ w ∈ waitingOf (fetching.entry i),
    i = 0 ∧ w = ⟨.h0, 17, 0, false, 4, .window ⟨0, 0⟩, .t0, 5000⟩ := by decide +kernel

theorem fetching_windowsFit : WindowsFit fetching := by
  intro i w hw
  have key : ∀ i, ∀ w ∈ (fetching.slot i).window, w = window .live := by decide +kernel
  cases key i w hw
  refine ⟨⟨by decide, by decide, by decide, by decide, ?_, ?_, ?_⟩, fun c hc => by cases hc⟩ <;>
    intro x hx <;> simp [window] at hx

theorem fetching_tags : TagsDistinct fetching where
  tags := by
    have h : ∀ i j, ∀ x ∈ currentTag (fetching.entry i), currentTag (fetching.entry j) = some x → i = j := by
      have key : ∀ i, ∀ x ∈ currentTag (fetching.entry i), (i = 0 ∧ x = (.h0, 17)) ∨ (i = 1 ∧ x = (.h1, 33)) := by decide +kernel
      intro i j x hi hj
      rcases key i x hi with ⟨rfl, rfl⟩ | ⟨rfl, rfl⟩ <;> rcases key j _ hj with ⟨rfl, h⟩ | ⟨rfl, h⟩ <;>
        first | rfl | exact absurd h (by decide)
    exact fun i j x => h i j x
  sessions := by
    have h : ∀ i, ∀ x ∈ currentSession (fetching.entry i), x.2 = fetching.ports.session.get x.1 := by decide +kernel
    exact fun i k n e => h i (k, n) e

theorem fetching_egress : EgressFollowsEntries fetching where
  waiting := by
    intro t i ep a n h
    cases t
    · cases List.mem_singleton.1 h
      exact ⟨rfl, _, rfl, rfl, rfl⟩
    all_goals cases h
  once := by
    intro t i
    cases t
    · exact List.countP_le_length.trans (Nat.le_refl 1)
    all_goals exact Nat.zero_le 1

theorem fetching_queues : QueuesFit fetching where
  ingress := by intro h; cases h <;> decide
  orders := by intro src; rcases src with _ | h <;> [skip; cases h] <;> decide
  egress := by intro t; cases t <;> decide

theorem fetching_down : DownPortsEmpty fetching where
  ingress := by intro h; cases h <;> decide
  entries := by
    have h : ∀ h, fetching.link (.host h) ≠ .up → ∀ i, ∀ x ∈ currentTag (fetching.entry i), x.1 ≠ h := by
      intro h; cases h <;> decide +kernel
    exact h
  orders := by intro src; rcases src with _ | h <;> [skip; cases h] <;> decide
  returns := by intro src; rcases src with _ | h <;> [skip; cases h] <;> decide
  egress := by intro t; cases t <;> decide
  waiting := by
    intro t hl i w hw e
    obtain ⟨-, rfl⟩ := fetching_waits i w (waitingOf_mem hw)
    subst e
    exact hl rfl
  disabled := by intro h; rcases h with h | h <;> cases h

theorem fetching_credits : CreditsMatch fetching where
  request := by intro h; cases h <;> decide
  order := by intro src; rcases src with _ | h <;> [skip; cases h] <;> decide
  noRequest := by intro h; cases h <;> decide
  noOrder := by intro src; rcases src with _ | h <;> [skip; cases h] <;> decide

theorem fetching_returns : ReturnsMatch fetching where
  replies := by intro h; cases h <;> decide
  answered := by
    intro h i hi
    cases h
    · cases hi
    · cases List.mem_singleton.1 (show i ∈ [1] from hi)
      exact ⟨_, rfl, rfl⟩
    · cases hi
    · cases hi
  mgmtReplies := rfl
  orders := by intro src; rcases src with _ | h <;> [skip; cases h] <;> decide
  silent := by intro src; rcases src with _ | h <;> [skip; cases h] <;> decide
  notices := ⟨by decide, by intro h; cases h <;> decide⟩
  notifications := ⟨by intro h; cases h <;> decide, by decide⟩

theorem fetching_note : NoteFollowsFlags fetching := by
  intro _
  exact ⟨fun _ => ⟨0, by decide, by decide⟩, fun _ => rfl⟩

/-! ### Statements about steps and invariants: what their hypotheses ask holds somewhere -/

theorem test_witness_StepTakesFront : State.reset.pending = [] := rfl

theorem test_witness_PoolBalancedKept : PoolBalanced (draining .gentle false) ∧ ∃ t, step (draining .gentle false) = .next t :=
  ⟨draining_poolBalanced _ _, _, rfl⟩

theorem test_witness_WindowsFitKept : WindowsFit (draining .gentle false) ∧ ∃ t, step (draining .gentle false) = .next t :=
  ⟨draining_windowsFit _ _, _, rfl⟩

theorem test_witness_RangesDisjointKept :
    RangesDisjoint (draining .force false) ∧ ∃ t, step (draining .force false) = .next t :=
  ⟨draining_rangesDisjoint, _, rfl⟩

theorem test_witness_CountsMatchKept : CountsMatch (draining .gentle true) ∧ ∃ t, step (draining .gentle true) = .next t :=
  ⟨draining_countsMatch _ _, _, rfl⟩

theorem test_witness_DrainsFollowWindowsKept :
    DrainsFollowWindows (draining .gentle false) ∧ ∃ t, step (draining .gentle false) = .next t :=
  ⟨draining_follows _ _, _, rfl⟩

theorem test_witness_TakenFollowsDrainsKept : DrainsFollowWindows (draining .force true) ∧
    TakenFollowsDrains (draining .force true) ∧ ∃ t, step (draining .force true) = .next t :=
  ⟨draining_follows _ _, draining_taken _ _, _, rfl⟩

theorem test_witness_DrainingHasTrafficKept : DrainsFollowWindows (draining .force true) ∧
    DrainingHasTraffic (draining .force true) ∧ ∃ t, step (draining .force true) = .next t :=
  ⟨draining_follows _ _, draining_hasTraffic _ _, _, rfl⟩

theorem test_witness_TagsDistinctKept : TagsDistinct fetching ∧ ∃ t, step fetching = .next t := ⟨fetching_tags, _, rfl⟩

theorem test_witness_EgressFollowsEntriesKept : EgressFollowsEntries fetching ∧ ∃ t, step fetching = .next t :=
  ⟨fetching_egress, _, rfl⟩

theorem test_witness_QueuesFitKept : WindowsFit fetching ∧ QueuesFit fetching ∧ ∃ t, step fetching = .next t :=
  ⟨fetching_windowsFit, fetching_queues, _, rfl⟩

theorem test_witness_DownPortsEmptyKept : DownPortsEmpty fetching ∧ ∃ t, step fetching = .next t := ⟨fetching_down, _, rfl⟩

theorem test_witness_CreditsMatchKept : DownPortsEmpty fetching ∧ CreditsMatch fetching ∧ ∃ t, step fetching = .next t :=
  ⟨fetching_down, fetching_credits, _, rfl⟩

theorem test_witness_ReturnsMatchKept : DownPortsEmpty fetching ∧ ReturnsMatch fetching ∧ ∃ t, step fetching = .next t :=
  ⟨fetching_down, fetching_returns, _, rfl⟩

theorem test_witness_ReturnQueuesBounded : ReturnsMatch fetching ∧ QueuesFit fetching ∧
    fetching.returns (.host .h1) = [.reply 1 33 .denied []] := ⟨fetching_returns, fetching_queues, rfl⟩

theorem test_witness_NoteFollowsFlagsKept : NoteFollowsFlags fetching ∧ ∃ t, step fetching = .next t :=
  ⟨fetching_note, _, rfl⟩

theorem test_witness_LocksAndFreezeLast : LockedLive (setFrozen (draining .gentle false)) ∧
    (setFrozen (draining .gentle false)).eng.frozen = true ∧
    (∃ w, ((setFrozen (draining .gentle false)).slot 2).window = some w ∧ w.locked = true) ∧
    ∃ t, exec (.delivery .t1) (setFrozen (draining .gentle false)) = .next t :=
  ⟨draining_lockedLive .gentle false, rfl, ⟨_, rfl, rfl⟩, _, rfl⟩

theorem test_witness_FrozenDirectoryStays : (setFrozen (holding .live 1)).eng.frozen = true ∧ NoDrains (setFrozen (holding .live 1)) ∧
    ∃ t, exec (.delivery .t0) (setFrozen (holding .live 1)) = .next t := ⟨rfl, rfl, _, rfl⟩

/-- A part whose LINK_UP is enabled; H0's port is answering. -/
def listening : State :=
  { (up.setLink (.host .h0) .answering) with events := { up.events with enabled := 0x801, noticeOwed := false } }

theorem test_witness_OccasionsReachManagement :
    exec (.partStartSent (.host .h0)) listening = .next (after (.partStartSent (.host .h0)) listening) ∧
    (after (.partStartSent (.host .h0)) listening).events.pending.getLsbD 11 = true ∧
    (after (.partStartSent (.host .h0)) listening).events.enabled.getLsbD 11 = true ∧
    listening.events.pending.getLsbD 11 = false := ⟨rfl, by decide +kernel, by decide +kernel, by decide⟩

/-! ### Supplies and reset -/

theorem test_witness_PowerAndResetEvents : State.reset.ctl.phase = .startUp ∧ running.ctl.phase = .running ∧
    (after (.powerOn false) State.reset).ctl.phase = .held ∧ (after .lossOfSupply State.reset).ctl.phase = .unpowered :=
  ⟨rfl, rfl, rfl, rfl⟩

/-- R191, R194: pin reset keeps POWER in the reset cause record and adds PIN. -/
theorem test_pin_reset_cause : (after .pinReset up).ctl = ⟨.held, ⟨true, true, false⟩⟩ ∧
    (after .resetNRelease (after .pinReset up)).ctl.phase = .startUp := ⟨rfl, rfl⟩

/-! ### Links -/

/-- Symbols as their senders seal them. -/
def startSym : Symbol := sealSymbol symStart (startArgs 3 0 4095)

def stopSym : Symbol := sealSymbol symStop 0

def restartSym : Symbol := sealSymbol symRestart 0

/-- A CREDIT of n RETURN credits. -/
def creditSym (n : Nat) : Symbol := sealSymbol symCredit (creditArgs .back n)

theorem test_symbols_match : symbolCheckMatches symStart startSym = true ∧ symbolCheckMatches symStop stopSym = true ∧
    symbolCheckMatches symRestart restartSym = true ∧ symbolCheckMatches symCredit (creditSym 1) = true ∧
    symbolCheckMatches symCredit (creditSym 63) = true ∧ symbolCredit (creditSym 1) = some (.back, 1) ∧
    symbolCredit (creditSym 63) = some (.back, 63) := by decide +kernel

theorem test_witness_IgnoredWithoutFlag : State.reset.ctl.phase ≠ .running ∧
    ArrivesAs .mgmt kindOrder (frame kindOrder 0 0 0 1 0 []) (.order .mgmt (frame kindOrder 0 0 0 1 0 [])) ∧
    running.ctl.phase = .running ∧ running.link (.host .h0) = .down ∧ symbolCheckMatches symStop stopSym = true ∧
    symbolCheckMatches symRestart restartSym = true ∧ symbolCheckMatches symCredit (creditSym 63) = true ∧
    symbolCredit (creditSym 63) = some (.back, 63) :=
  ⟨by decide, .inr (.inr (.inl ⟨.mgmt, rfl, rfl, rfl⟩)), rfl, rfl, test_symbols_match.2.1, test_symbols_match.2.2.1,
    test_symbols_match.2.2.2.2.1, test_symbols_match.2.2.2.2.2.2⟩

theorem test_witness_StartIsTaken : running.ctl.phase = .running ∧ symbolCheckMatches symStart startSym = true ∧
    running.link .mgmt = .down ∧ (running.setLink .mgmt .awaitingStart).link .mgmt = .awaitingStart ∧
    (running.setLink .mgmt .answering).link .mgmt = .answering := ⟨rfl, test_symbols_match.1, rfl, rfl, rfl⟩

/-- R174, R175: the held count of M is the RETURN grant of its START, at its largest. -/
theorem test_start_grant : (after (.start .mgmt startSym) running).ports.held.mgmt = 4095 ∧
    (after (.start .mgmt startSym) running).link .mgmt = .answering := by decide +kernel

/-- A part whose notified host is H0, with both owed marks set and LINK_UP enabled; H0 and M are answering. -/
def owing (barred : Bool) : State :=
  { ((up.setLink (.host .h0) .answering).setLink .mgmt .answering) with
    ports := { ((up.setLink (.host .h0) .answering).setLink .mgmt .answering).ports with barredHost := ⟨barred, false, false, false⟩ }
    events := { up.events with enabled := 0x801, noticeOwed := true, setting := ⟨some .h0, 0x7000, 0x100⟩, notificationOwed := true } }

theorem test_witness_PartStartMakesUp : (owing false).ctl.phase = .running ∧ (owing false).link .mgmt = .answering ∧
    (owing false).events.noticeOwed = true ∧ (owing false).link (.host .h0) = .answering ∧
    (owing false).events.setting.host = some .h0 ∧ (owing false).events.notificationOwed = true ∧
    (owing true).ports.barredHost.get .h0 = true ∧ (up.setLink (.target .t2) .answering).link (.target .t2) = .answering :=
  ⟨rfl, rfl, rfl, rfl, rfl, rfl, rfl, rfl⟩

/-- R183: the value is the data base plus the number of the highest-priority flag, RESET_SEEN; a barred host gets none. -/
theorem test_owed_notification : (after (.partStartSent (.host .h0)) (owing false)).returns (.host .h0) =
      [.notification 0x7000 0x101] ∧ (after (.partStartSent (.host .h0)) (owing true)).returns (.host .h0) = [] := by
  decide +kernel

theorem test_witness_CreditIsTaken : up.ctl.phase = .running ∧ up.link .mgmt ≠ .down ∧
    symbolCheckMatches symCredit (creditSym 63) = true ∧ symbolCredit (creditSym 63) = some (.back, 63) ∧
    sendingClass .mgmt = .back ∧ (up.setHeld .mgmt 4032).ports.held.get .mgmt + 63 ≤ 4095 ∧
    4095 < (up.setHeld .mgmt 4033).ports.held.get .mgmt + 63 ∧ CreditClass.back ≠ sendingClass (.target .t0) :=
  ⟨rfl, by decide, test_symbols_match.2.2.2.2.1, test_symbols_match.2.2.2.2.2.2, rfl, by decide, by decide, by decide⟩

theorem test_witness_BadSymbolsIgnored : up.ctl.phase = .running ∧ isMalformedSymbol [1, 2, 3, 4, 5, 6, 7] = true ∧
    isMalformedSymbol [5, 0, 0, 0, 0, 0, 0, 0] = true ∧ symbolCheckMatches symStart stopSym = false ∧
    symbolCheckMatches symStop startSym = false ∧ symbolCheckMatches symRestart stopSym = false ∧
    symbolCheckMatches symCredit stopSym = false ∧ symbolCredit (creditSym 0) = none ∧ symbolCredit (creditSym 64) = none := by
  decide +kernel

/-- The four ways in which the session of H0 ends in a part. -/
theorem endsH0 {s : State} (hs : s.link (.host .h0) = .up) : EndsSession s (.host .h0) (.lossOfSignal (.host .h0)) .down 0 ∧
    EndsSession s (.host .h0) (.stop (.host .h0) stopSym) .down 0 ∧
    EndsSession s (.host .h0) (.restart (.host .h0) restartSym) .awaitingStart 0 ∧
    EndsSession s (.host .h0) (.start (.host .h0) startSym) .answering 4095 := by
  have n : s.link (.host .h0) ≠ .down := by rw [hs]; decide
  refine ⟨⟨n, .inl ⟨rfl, rfl, .inl rfl⟩⟩, ⟨n, .inl ⟨rfl, rfl, .inr ⟨_, test_symbols_match.2.1, rfl⟩⟩⟩,
    ⟨n, .inr (.inl ⟨rfl, rfl, _, test_symbols_match.2.2.1, rfl⟩)⟩, ⟨n, .inr (.inr ⟨rfl, hs, _, test_symbols_match.1, ?_, rfl⟩)⟩⟩
  decide +kernel

theorem test_witness_HostSessionEnds : (draining .gentle false).ctl.phase = .running ∧
    EndsSession (draining .gentle false) (.host .h0) (.start (.host .h0) startSym) .answering 4095 ∧
    DrainsFollowWindows (draining .gentle false) ∧ DrainingHasTraffic (draining .gentle false) ∧
    EndsSession fetching (.host .h0) (.stop (.host .h0) stopSym) .down 0 ∧ NoHostWaits fetching :=
  ⟨rfl, (endsH0 rfl).2.2.2, draining_follows _ _, draining_hasTraffic _ _, (endsH0 rfl).2.1, by intro h; cases h <;> rfl⟩

/-- R67, R76: at H0's session end its WAITING entry is an orphan and its TAKEN order silent. -/
theorem test_host_session_end : (after (.lossOfSignal (.host .h0)) fetching).entry 0 =
      ⟨5, .waiting ⟨.h0, 17, 0, true, 4, .window ⟨0, 0⟩, .t0, 5000⟩⟩ ∧
    (after (.lossOfSignal (.host .h0)) (draining .force false)).orders (.host .h0) = [⟨9, 0x0A, [], .taken 1, true⟩] := by
  decide +kernel

theorem test_witness_TargetSessionEnds : fetching.ctl.phase = .running ∧
    EndsSession fetching (.target .t0) (.lossOfSignal (.target .t0)) .down 0 ∧ NoDrains fetching ∧ NoHostWaits fetching ∧
    ((draining .force true).egress .t1).any isPost = true :=
  ⟨rfl, ⟨by decide, .inl ⟨rfl, rfl, .inl rfl⟩⟩, rfl, by intro h; cases h <;> rfl, rfl⟩

/-- R63: the WAITING entry of the port ends PORT_DOWN. -/
theorem test_target_session_end : (after (.lossOfSignal (.target .t0)) fetching).returns (.host .h0) = [.reply 0 17 .portDown []] ∧
    ((after (.lossOfSignal (.target .t0)) fetching).slot 0).count = 0 := by decide +kernel

/-- What `draining` has in flight lies wholly with T1: its loss completes the drain, and T0's does not. -/
theorem test_witness_TargetSessionEnds_drains (r : Bool) : (draining .gentle r).ctl.phase = .running ∧
    EndsSession (draining .gentle r) (.target .t1) (.lossOfSignal (.target .t1)) .down 0 ∧
    EndsSession (draining .gentle r) (.target .t0) (.lossOfSignal (.target .t0)) .down 0 ∧
    DrainsFollowWindows (draining .gentle r) ∧ TakenFollowsDrains (draining .gentle r) ∧ CountsMatch (draining .gentle r) ∧
    drainJob .gentle r ∈ (draining .gentle r).eng.drains ∧ ((draining .gentle r).slot 1).window = some (drainWindow r) ∧
    trafficElsewhere (draining .gentle r) .t1 (drainJob .gentle r).handle = false ∧
    trafficElsewhere (draining .gentle r) .t0 (drainJob .gentle r).handle = true ∧
    replyOwed (draining .gentle r) (drainJob .gentle r) = !r :=
  ⟨rfl, ⟨by cases r <;> decide, .inl ⟨rfl, rfl, .inl rfl⟩⟩, ⟨by cases r <;> decide, .inl ⟨rfl, rfl, .inl rfl⟩⟩, draining_follows _ _,
    draining_taken _ _, draining_countsMatch _ _, List.mem_singleton_self _, rfl, by cases r <;> decide +kernel,
    by cases r <;> decide +kernel, by cases r <;> decide⟩

/-- R129: the loss of T1 completes the RETIRE, or applies the attach and answers the order. -/
theorem test_target_loss_completes : (after (.lossOfSignal (.target .t1)) (draining .gentle true)).slot 1 = ⟨8, 0, none⟩ ∧
    (after (.lossOfSignal (.target .t1)) (draining .gentle false)).returns (.host .h0) = [.orderReply 9 0x0A .done []] := by
  decide +kernel

theorem test_witness_ManagementSessionEnds : fetching.ctl.phase = .running ∧
    EndsSession fetching .mgmt (.restart .mgmt restartSym) .awaitingStart 0 :=
  ⟨rfl, by decide, .inr (.inl ⟨rfl, rfl, _, test_symbols_match.2.2.1, rfl⟩)⟩

/-! ### Arriving packets -/

/-- A frame that its sender has sealed arrives whole (R162). -/
theorem sealed_matches (k : Byte) (f : Frame) (h : f.cut = false) : checkMatches k (sealFrame k f) = true := by
  simp only [checkMatches, sealFrame, h, Bool.not_false, Bool.true_and, beq_self_eq_true]

theorem frame_matches (k : Byte) (n tag : BitVec 16) (st code : Byte) (a : Addr) (d : List Byte) :
    checkMatches k (frame k n tag st code a d) = true := sealed_matches _ _ rfl

theorem test_witness_RequestEntersIngress : up.ctl.phase = .running ∧ up.link (.host .h1) = .up ∧ (up.ingress .h1).length < 8 ∧
    (∀ n : BitVec 16, ∀ d : List Byte, n = 1 ∧ d = [7] ∨ n = 256 ∧ d = List.replicate 256 7 →
      1 ≤ n.toNat ∧ n.toNat ≤ 256 ∧ checkMatches kindPost (frame kindPost n 0 0 0 0x1000 d) = true ∧ d.length = n.toNat ∧
        checkMatches kindFetch (frame kindFetch n 9 0 0 0x1000 []) = true) := by
  refine ⟨rfl, rfl, by decide, fun n d h => ?_⟩
  rcases h with ⟨rfl, rfl⟩ | ⟨rfl, rfl⟩
  · exact ⟨by decide, by decide, frame_matches .., rfl, frame_matches ..⟩
  · exact ⟨by decide, by decide, frame_matches .., List.length_replicate, frame_matches ..⟩

/-- The order frame that the two clauses below use: sequence number 9. -/
def orderFrame : Frame := frame kindOrder 0 9 0 0x04 0 (block [])

theorem test_witness_OrderEntersQueue : (draining .gentle false).ctl.phase = .running ∧
    (draining .gentle false).link (Source.host .h0).port = .up ∧
    placesUsed ((draining .gentle false).orders (.host .h0)) < Config.orderPlaces (.host .h0) ∧
    checkMatches kindOrder orderFrame = true ∧ orderFrame.length = 0 ∧ orderFrame.payload.length = 64 ∧
    (∃ e ∈ (draining .gentle false).orders (.host .h0), e.silent = false ∧ e.sequence = orderFrame.tag.extractLsb' 0 8) ∧
    ∀ e ∈ (draining .gentle true).orders (.host .h0), e.silent = false → e.sequence ≠ orderFrame.tag.extractLsb' 0 8 :=
  ⟨rfl, rfl, by decide, frame_matches .., rfl, by decide, by decide, by decide⟩

/-- H0's ingress queue and M's order queue are full. -/
def full : State := (up.setIngress .h0 (List.replicate 8 (.fetch 1 0 1))).setOrders .mgmt (List.replicate 8 (asked 0x04 []))

theorem test_witness_PacketIsDiscarded : up.ctl.phase = .running ∧
    ArrivesAs (.host .h0) kindPost (frame kindPost 1 0 0 0 0 [7]) (.post .h0 (frame kindPost 1 0 0 0 0 [7])) ∧
    running.link (.host .h0) ≠ .up ∧ up.link (.host .h0) = .up ∧
    (checkMatches kindPost ⟨true, 0, 0, 0, 0, 0, 0, 0, [], 0⟩ && takesKind (.host .h0) kindPost &&
      formMatches kindPost ⟨true, 0, 0, 0, 0, 0, 0, 0, [], 0⟩) = false ∧
    creditSpent up (.host .h0) kindPost = some .request ∧ creditSpent running (.host .h0) kindPost = none ∧
    (checkMatches kindPost (frame kindPost 1 0 0 0 0 [7]) && takesKind (.host .h0) kindPost &&
      formMatches kindPost (frame kindPost 1 0 0 0 0 [7])) = true ∧
    full.link (.host .h0) = .up ∧ 8 ≤ (full.ingress .h0).length ∧
    Config.orderPlaces .mgmt ≤ placesUsed (full.orders .mgmt) :=
  ⟨rfl, .inr (.inl ⟨_, rfl, .inl ⟨rfl, rfl⟩⟩), by decide, rfl, by decide, by decide, by decide, by decide +kernel, rfl, by decide,
    by decide⟩

/-- The REPLY of entry 0 of `fetching` with a status and data. -/
def replyFrame (st : Byte) (d : List Byte) : Frame := frame kindReply (BitVec.ofNat 16 d.length) (downstreamTag 0 5) st 0 0 d

theorem test_witness_ReplyIsMatched : fetching.ctl.phase = .running ∧ fetching.link (.target .t0) = .up ∧
    checkMatches kindReply (replyFrame 0 [1, 2, 3, 4]) = true ∧ checkMatches kindReply (replyFrame 1 []) = true ∧
    checkMatches kindReply (replyFrame 0 [1, 2, 3]) = true ∧ (replyFrame 0 [1, 2, 3, 4]).length.toNat ≤ 256 ∧
    (replyFrame 0 [1, 2, 3, 4]).payload.length = (replyFrame 0 [1, 2, 3, 4]).length.toNat ∧
    TagMatches fetching .t0 (replyFrame 0 [1, 2, 3, 4]).tag 0 ⟨.h0, 17, 0, false, 4, .window ⟨0, 0⟩, .t0, 5000⟩ ∧
    NoHostWaits fetching ∧ NoDrains fetching :=
  ⟨rfl, rfl, frame_matches .., frame_matches .., frame_matches .., by decide, by decide,
    ⟨rfl, by decide, by decide, rfl⟩, by intro h; cases h <;> rfl, rfl⟩

/-- R58: a DONE of the wrong length is a target error, and PROTOCOL names the port. -/
theorem test_reply_of_wrong_length :
    (after (.reply .t0 (replyFrame 0 [1, 2, 3])) fetching).returns (.host .h0) = [.reply 0 17 .targetError []] ∧
    (after (.reply .t0 (replyFrame 0 [1, 2, 3])) fetching).events.details[Flag.protocol.bit] = 0x010 ∧
    (after (.reply .t0 (replyFrame 0 [1, 2, 3, 4])) fetching).returns (.host .h0) = [.reply 0 17 .done [1, 2, 3, 4]] := by
  decide +kernel

/-- `draining` with its last item a WAITING entry of H0 or H1, an orphan or not, in place of the POST. -/
def ending (m : Mode) (r : Bool) (h : HostId) (orphan : Bool) : State :=
  { draining m r with
    table := { up.table with entries := up.table.entries.set 0 ⟨5, .waiting ⟨h, 17, 0, orphan, 4, .window ⟨1, 7⟩, .t1, 5000⟩⟩ }
    ports := { (draining m r).ports with egress := up.ports.egress } }

theorem ending_last (m : Mode) (r : Bool) (h : HostId) (o : Bool) :
    LastOf (.window ⟨1, 7⟩) (drainJob m r) (drainWindow r) (drainEntry r) (ending m r h o) where
  follows := ⟨(draining_follows m r).bound, (draining_follows m r).distinct, (draining_follows m r).followed,
    (draining_follows m r).follows⟩
  taken := ⟨(draining_taken m r).held, (draining_taken m r).once, (draining_taken m r).holder⟩
  traffic := draining_hasTraffic m r
  job := List.mem_singleton_self _
  route := ⟨7, rfl⟩
  window := rfl
  count := rfl
  order := List.mem_singleton_self _
  held := rfl

/-- The last item of a drain is answered, or its timer runs out; the same for a window that does not drain is `fetching`. -/
theorem test_witness_ReplyIsMatched_drain (r o : Bool) : (ending .gentle r .h0 o).ctl.phase = .running ∧
    (ending .gentle r .h0 o).link (.target .t1) = .up ∧
    TagMatches (ending .gentle r .h0 o) .t1 (replyFrame 0 [1, 2, 3, 4]).tag 0 ⟨.h0, 17, 0, o, 4, .window ⟨1, 7⟩, .t1, 5000⟩ ∧
    ∃ j w e, LastOf (.window ⟨1, 7⟩) j w e (ending .gentle r .h0 o) :=
  ⟨rfl, rfl, ⟨rfl, by decide, by cases r <;> cases o <;> decide, rfl⟩, _, _, _, ending_last ..⟩

/-- R122: the order's reply stands behind the REPLY of the entry that brought the count to zero. -/
theorem test_reply_completes_drain :
    (after (.reply .t1 (replyFrame 0 [1, 2, 3, 4])) (ending .gentle false .h0 false)).returns (.host .h0) =
      [.reply 0 17 .done [1, 2, 3, 4], .orderReply 9 0x0A .done []] ∧
    (after (.replyTimerExpiry 0) (ending .force true .h1 true)).slot 1 = ⟨8, 0, none⟩ := by decide +kernel

/-- An orphan without a drain, whose FETCH has left its egress queue: its REPLY frees the entry. -/
def orphaned : State :=
  (fetching.setEgress .t0 []).setEntry 0 ⟨5, .waiting ⟨.h0, 17, 0, true, 4, .window ⟨0, 0⟩, .t0, 5000⟩⟩

theorem test_witness_ReplyIsMatched_handout : orphaned.ctl.phase = .running ∧ orphaned.link (.target .t0) = .up ∧
    TagMatches orphaned .t0 (replyFrame 0 [1, 2, 3, 4]).tag 0 ⟨.h0, 17, 0, true, 4, .window ⟨0, 0⟩, .t0, 5000⟩ ∧
    (∀ pkt ∈ orphaned.egress .t0, isFetchOf 0 pkt = false) ∧ orphaned.eng.drains = [] :=
  ⟨rfl, rfl, ⟨rfl, by decide, by decide, rfl⟩, (fun _ hp => nomatch hp), rfl⟩

theorem test_witness_StrayReplyDiscarded : fetching.ctl.phase = .running ∧ fetching.link (.target .t1) = .up ∧
    checkMatches kindReply (replyFrame 0 [1]) = true ∧ (replyFrame 0 [1]).length.toNat ≤ 256 ∧
    (replyFrame 0 [1]).payload.length = (replyFrame 0 [1]).length.toNat ∧
    ∀ i w, ¬TagMatches fetching .t1 (replyFrame 0 [1]).tag i w := by
  refine ⟨rfl, rfl, frame_matches .., by decide, by decide, fun i w h => ?_⟩
  obtain ⟨-, rfl⟩ := fetching_waits i w (waitingOf_mem h.1)
  cases h.2.2.2

/-! ### Forward attempts -/

/-- H0's queue holds one request, not yet tried. -/
def heading (r : Request) (s : State) : State := s.setIngress .h0 [r]

/-- A part whose slot 0 holds the LIVE window with a MIRROR port T1. -/
def mirrored (t1 : LinkState) (barred : Bool) : State :=
  let s := (up.setSlot 0 ⟨0, 0, some { window .live with chain := [.mirror .t1] }⟩).setLink (.target .t1) t1
  { s with ports := { s.ports with barredTarget := ⟨false, barred, false, false⟩ } }

/-- No reply entry is free, and T0's queue is full if asked for. -/
def crowded (fullT0 : Bool) : State :=
  let s := { holding .live 0 with table := { up.table with entries := .replicate _ ⟨0, .answered ⟨.h1, 0, 0, none, .denied, []⟩⟩ } }
  if fullT0 then s.setEgress .t0 (List.replicate 16 (.post .fallback .h1 0 [])) else s

theorem test_witness_HeadLeavesUnanswered : FreshHead (heading (.fetch 17 0x1000 4) fetching) .h0 (.fetch 17 0x1000 4) ∧
    DuplicateTag (heading (.fetch 17 0x1000 4) fetching) .h0 17 ∧
    FreshHead (heading (.post 0x1000 [7]) up) .h0 (.post 0x1000 [7]) ∧
    lookup (heading (.post 0x1000 [7]) up) .h0 (.post 0x1000 [7]) = .refused .noWindow :=
  ⟨⟨rfl, rfl, rfl⟩, ⟨0, rfl⟩, ⟨rfl, rfl, rfl⟩, by decide +kernel⟩

theorem fetching_noDuplicate : ¬DuplicateTag (heading (.fetch 18 0x1000 4) fetching) .h0 18 := by
  have h : ∀ i, currentTag ((heading (.fetch 18 0x1000 4) fetching).entry i) ≠ some (.h0, 18) := by decide +kernel
  rintro ⟨i, hi⟩
  exact h i hi

theorem fetching_lowestFree : LowestFree fetching 2 := ⟨rfl, by decide +kernel⟩

theorem test_witness_RefusedFetchAnswered : FreshHead (heading (.fetch 18 0x5000 4) fetching) .h0 (.fetch 18 0x5000 4) ∧
    ¬DuplicateTag (heading (.fetch 18 0x5000 4) fetching) .h0 18 ∧
    lookup (heading (.fetch 18 0x5000 4) fetching) .h0 (.fetch 18 0x5000 4) = .refused .noWindow ∧
    LowestFree (heading (.fetch 18 0x5000 4) fetching) 2 :=
  ⟨⟨rfl, rfl, rfl⟩, fetching_noDuplicate, by decide +kernel, fetching_lowestFree⟩

theorem test_witness_FetchIsForwarded : FreshHead (heading (.fetch 18 0x1FFC 4) fetching) .h0 (.fetch 18 0x1FFC 4) ∧
    ¬DuplicateTag (heading (.fetch 18 0x1FFC 4) fetching) .h0 18 ∧
    lookup (heading (.fetch 18 0x1FFC 4) fetching) .h0 (.fetch 18 0x1FFC 4) =
      .forward ⟨.window ⟨0, 0⟩, .t0, 0x1FFC, none⟩ ∧
    LowestFree (heading (.fetch 18 0x1FFC 4) fetching) 2 ∧ ((heading (.fetch 18 0x1FFC 4) fetching).egress .t0).length < 16 :=
  ⟨⟨rfl, rfl, rfl⟩, fetching_noDuplicate, by decide +kernel, fetching_lowestFree, by decide⟩

theorem test_witness_PostIsForwarded : FreshHead (heading (.post 0x1000 [7]) (mirrored .up false)) .h0 (.post 0x1000 [7]) ∧
    lookup (heading (.post 0x1000 [7]) (holding .live 0)) .h0 (.post 0x1000 [7]) =
      .forward ⟨.window ⟨0, 0⟩, .t0, 0x1000, none⟩ ∧
    lookup (heading (.post 0x1000 [7]) (mirrored .up false)) .h0 (.post 0x1000 [7]) =
      .forward ⟨.window ⟨0, 0⟩, .t0, 0x1000, some .t1⟩ ∧
    lookup (heading (.post 0x1000 [7]) (mirrored .answering false)) .h0 (.post 0x1000 [7]) =
      .forward ⟨.window ⟨0, 0⟩, .t0, 0x1000, some .t1⟩ ∧
    (mirrored .answering false).link (.target .t1) ≠ .up ∧ (mirrored .up true).ports.barredTarget.get .t1 = true ∧
    ((mirrored .up false).egress .t1).length < 16 :=
  ⟨⟨rfl, rfl, rfl⟩, by decide +kernel, by decide +kernel, by decide +kernel, by decide, rfl, by decide⟩

/-- R109: the copy goes to the mirror port under the same window, whose count rises by two. -/
theorem test_mirror_copy : ((after (.forwardAttempt .h0) (heading (.post 0x1000 [7]) (mirrored .up false))).slot 0).count = 2 ∧
    (after (.forwardAttempt .h0) (heading (.post 0x1000 [7]) (mirrored .up false))).egress .t1 =
      [.post (.window ⟨0, 0⟩) .h0 0x1000 [7]] := by decide +kernel

/-- A head lacks an entry, an entry and a place, or a place. -/
theorem test_witness_HeadWaits : FreshHead (heading (.fetch 5 0x9000 4) (crowded false)) .h0 (.fetch 5 0x9000 4) ∧
    LacksFor (heading (.fetch 5 0x9000 4) (crowded false)) .h0 (.fetch 5 0x9000 4) ⟨true, .replicate false⟩ ∧
    LacksFor (heading (.fetch 5 0x1000 4) (crowded true)) .h0 (.fetch 5 0x1000 4) ⟨true, ⟨true, false, false, false⟩⟩ ∧
    LacksFor (heading (.post 0x1000 [7]) (crowded true)) .h0 (.post 0x1000 [7]) ⟨false, ⟨true, false, false, false⟩⟩ := by
  have tags : ∀ b a, ¬DuplicateTag (heading (.fetch 5 a 4) (crowded b)) .h0 5 := by
    have h : ∀ b, ∀ i, currentTag ((crowded b).entry i) = some (.h1, 0) := by decide +kernel
    rintro b a ⟨i, hi⟩
    cases (h b i).symm.trans hi
  have busy : ∀ b a, ¬∃ i, ((heading (.fetch 5 a 4) (crowded b)).entry i).state = .free := by
    have h : ∀ b, ∀ i, ((crowded b).entry i).state ≠ .free := by decide +kernel
    rintro b a ⟨i, hi⟩
    exact h b i hi
  refine ⟨⟨rfl, rfl, rfl⟩, ?_, ?_, ?_⟩
  · have e : lookup (heading (.fetch 5 0x9000 4) (crowded false)) .h0 (.fetch 5 0x9000 4) = .refused .noWindow := by decide +kernel
    unfold LacksFor
    rw [e]
    exact ⟨tags _ _, ⟨fun _ => busy _ _, fun _ => rfl⟩, by intro t; cases t <;> rfl⟩
  · have e : lookup (heading (.fetch 5 0x1000 4) (crowded true)) .h0 (.fetch 5 0x1000 4) =
        .forward ⟨.window ⟨0, 0⟩, .t0, 0x1000, none⟩ := by decide +kernel
    unfold LacksFor
    rw [e]
    exact ⟨tags _ _, ⟨fun _ => busy _ _, fun _ => rfl⟩, by intro t; cases t <;> decide⟩
  · have e : lookup (heading (.post 0x1000 [7]) (crowded true)) .h0 (.post 0x1000 [7]) =
        .forward ⟨.window ⟨0, 0⟩, .t0, 0x1000, none⟩ := by decide +kernel
    unfold LacksFor
    rw [e]
    exact ⟨rfl, by intro t; cases t <;> decide⟩

/-- The ranges of `draining .force false`: slot 1 DRAINING, slot 2 LIVE, slot 3 STAGED, each at both ends; below and above
them nothing is reserved. -/
theorem test_witness_LookupChecksInOrder : RangesDisjoint (draining .force false) ∧
    ReservedAt (draining .force false) 1 0x2000 ∧ ReservedAt (draining .force false) 1 0x2FFF ∧
    ReservedAt (draining .force false) 2 0x4000 ∧ ReservedAt (draining .force false) 2 0x5FFF ∧
    ReservedAt (draining .force false) 3 0x6000 ∧ ReservedAt (draining .force false) 3 0x6FFF ∧
    (∀ i, ¬ReservedAt (draining .force false) i 0x1FFF) ∧ (∀ i, ¬ReservedAt (draining .force false) i (2 ^ 48 - 1)) ∧
    (∀ i, ∀ p ∈ slotReserved ((draining .force false).slot i), ¬(p.first ≤ 0x1FFF ∧ 0x1FFF ≤ p.last)) ∧
    (∃ i, ∃ p ∈ slotReserved ((draining .force false).slot i), p.first ≤ 0x2000 ∧ 0x1FFF ≤ p.last) := by
  refine ⟨draining_rangesDisjoint, ⟨⟨0x2000, 0x2FFF⟩, by decide, by decide, by decide⟩,
    ⟨⟨0x2000, 0x2FFF⟩, by decide, by decide, by decide⟩, ⟨⟨0x4000, 0x5FFF⟩, by decide, by decide, by decide⟩,
    ⟨⟨0x4000, 0x5FFF⟩, by decide, by decide, by decide⟩, ⟨⟨0x6000, 0x6FFF⟩, by decide, by decide, by decide⟩,
    ⟨⟨0x6000, 0x6FFF⟩, by decide, by decide, by decide⟩, ?_, ?_, ?_, 1, ⟨0x2000, 0x2FFF⟩, by decide, by decide, by decide⟩
  · have h : ∀ i, ¬∃ p ∈ slotReserved ((draining .force false).slot i), p.first ≤ 0x1FFF ∧ 0x1FFF ≤ p.last := by decide +kernel
    exact h
  · have h : ∀ i, ¬∃ p ∈ slotReserved ((draining .force false).slot i), p.first ≤ 2 ^ 48 - 1 ∧ 2 ^ 48 - 1 ≤ p.last := by
      decide +kernel
    exact h
  · decide +kernel

/-- Windows whose records each clause on admission, address and mirror speaks of. -/
theorem test_witness_LookupChecksInOrder_records :
    FieldsFit { window .live with chain := [.guard [(.h1, .none), (.h0, .read)], .translate 0x9000, .mirror .t1] } ∧
    FieldsFit (window .live) ∧ (∀ es p, ExtRecord.guard es ∈ (window .live).chain → (HostId.h0, p) ∉ es) ∧
    ∀ b, ExtRecord.translate b ∉ (window .live).chain := by
  refine ⟨⟨by decide, by decide, by decide, by decide, ?_, ?_, ?_⟩, ⟨by decide, by decide, by decide, by decide, ?_, ?_, ?_⟩, ?_, ?_⟩
  · intro b hb
    simp only [List.mem_cons, reduceCtorEq, ExtRecord.translate.injEq, List.not_mem_nil, or_false, false_or] at hb
    subst hb; decide
  · intro es he
    simp only [List.mem_cons, reduceCtorEq, ExtRecord.guard.injEq, List.not_mem_nil, or_false] at he
    subst he; decide
  · intro t ht
    simp only [List.mem_cons, reduceCtorEq, ExtRecord.mirror.injEq, List.not_mem_nil, or_false, false_or] at ht
    subst ht; decide
  all_goals intros; simp_all [window]

/-- R105, R107: the last byte of a window under a TRANSLATE record, and a GUARD entry that shuts a user out. -/
theorem test_records : forwardedAddress { window .live with chain := [.translate 0x9000] } 0x1FFF = 0x9FFF ∧
    windowAdmits { window .live with chain := [.guard [(.h1, .none)]] } .h1 .fetch = false ∧
    windowAdmits { window .live with chain := [.guard [(.h1, .none)]] } .h0 .fetch = true ∧
    windowAdmits { window .live with users := 0, chain := [.guard [(.h1, .read)]] } .h1 .fetch = true := by decide

/-- The clauses on the LIVE window: a range past its limit, a request it does not serve, its port closed and open. -/
theorem test_lookup_live : lookup (draining .force false) .h1 (.post 0x5FFF [1, 2]) = .refused .straddle ∧
    lookup (draining .force false) .h1 (.post 0x5FFF [1]) = .forward ⟨.window ⟨2, 0⟩, .t0, 0x5FFF, none⟩ ∧
    lookup ((draining .force false).setLink (.target .t0) .down) .h1 (.post 0x5FFF [1]) = .refused .portDown ∧
    lookup (up.setSlot 0 ⟨0, 0, some { window .live with chain := [.guard [(.h1, .read)]] }⟩) .h1 (.post 0x1000 [1]) =
      .refused .denied := by decide +kernel

/-- The clauses on unclaimed space: a range that meets a window, or leaves the space, and the fallback. -/
theorem test_lookup_unclaimed : lookup (draining .force false) .h1 (.post 0x1FFF [1, 2]) = .refused .straddle ∧
    lookup up .h1 (.fetch 0 0xFFFFFFFFFFFF 2) = .refused .straddle ∧ lookup up .h1 (.fetch 0 0xFFFFFFFFFFFF 1) = .refused .noWindow ∧
    lookup (up.setFallback (some .t2)) .h1 (.fetch 0 0xFFFFFFFFFFFF 1) = .forward ⟨.fallback, .t2, 0xFFFFFFFFFFFF, none⟩ := by
  decide +kernel

/-! ### Sending and timers -/

theorem test_witness_DeliverySendsHead : fetching.egress .t0 = .fetch 0 5 0x1000 4 :: [] ∧ fetching.ctl.phase = .running ∧
    fetching.link (.target .t0) = .up ∧ fetching.ports.held.get (.target .t0) ≠ 0 ∧ NoHostWaits fetching ∧ NoDrains fetching ∧
    (up.setEgress .t0 [.post .fallback .h0 0 [7]]).egress .t0 = .post .fallback .h0 0 [7] :: [] ∧
    NoHostWaits (up.setEgress .t0 [.post .fallback .h0 0 [7]]) ∧ NoDrains (up.setEgress .t0 [.post .fallback .h0 0 [7]]) ∧
    (fetching.setHeld (.target .t0) 0).ports.held.get (.target .t0) = 0 ∧ (fetching.setLink (.target .t0) .down).link (.target .t0) ≠ .up :=
  ⟨rfl, rfl, rfl, by decide, by intro h; cases h <;> rfl, rfl, rfl, by intro h; cases h <;> rfl, rfl, rfl, by decide⟩

/-- `fetching` with H1 waiting, with a head, for an entry and for a place in T0. -/
def contended (r : Request) : State := (fetching.setIngress .h1 [r]).setMark .h1 ⟨true, ⟨true, false, false, false⟩⟩

theorem contended_first (r : Request) (x : Freed) (hx : x = .entry 1 ∨ x = .place .t0) : FirstInTurn x (contended r) .h1 := by
  have turns : turnsAfter .h3 = [.h0, .h1, .h2, .h3] := by decide
  rcases hx with rfl | rfl
  all_goals exact ⟨[.h0], [.h2, .h3], turns, fun k hk => by cases List.mem_singleton.1 hk; rfl, rfl⟩

/-- A POST of H1 waits for the place that the delivery frees. -/
theorem test_witness_DeliverySendsHead_waiting : (contended (.post 0x1000 [7])).egress .t0 = .fetch 0 5 0x1000 4 :: [] ∧
    (contended (.post 0x1000 [7])).ctl.phase = .running ∧ (contended (.post 0x1000 [7])).link (.target .t0) = .up ∧
    (contended (.post 0x1000 [7])).ports.held.get (.target .t0) ≠ 0 ∧ NoDrainEnds (contended (.post 0x1000 [7])) ∧
    FirstInTurn (.place .t0) (contended (.post 0x1000 [7])) .h1 ∧
    lookup (contended (.post 0x1000 [7])) .h1 (.post 0x1000 [7]) = .forward ⟨.window ⟨0, 0⟩, .t0, 0x1000, none⟩ :=
  ⟨rfl, rfl, rfl, by decide, (fun j hj => nomatch hj), contended_first _ _ (.inr rfl), by decide +kernel⟩

/-- R47: the waiting POST takes the place, and its host becomes the queue's position. -/
theorem test_place_handed_out : (after (.delivery .t0) (contended (.post 0x1000 [7]))).egress .t0 =
      [.post (.window ⟨0, 0⟩) .h1 0x1000 [7]] ∧
    (after (.delivery .t0) (contended (.post 0x1000 [7]))).ports.egressPosition = ⟨.h1, .h3, .h3, .h3⟩ := by decide +kernel

theorem test_witness_LastDeliveryCompletesDrain (r : Bool) : (draining .gentle r).ctl.phase = .running ∧
    (draining .gentle r).link (.target .t1) = .up ∧ (draining .gentle r).ports.held.get (.target .t1) ≠ 0 ∧
    (draining .gentle r).egress .t1 = .post (.window ⟨1, 7⟩) .h0 0x2000 [5] :: [] ∧ DrainsFollowWindows (draining .gentle r) ∧
    TakenFollowsDrains (draining .gentle r) ∧ DrainingHasTraffic (draining .gentle r) ∧
    drainJob .gentle r ∈ (draining .gentle r).eng.drains ∧ (drainJob .gentle r).handle.slot = 1 ∧
    ((draining .gentle r).slot 1).window = some (drainWindow r) ∧ ((draining .gentle r).slot 1).count = 1 ∧
    drainEntry r ∈ (draining .gentle r).orders (.host .h0) ∧ (drainEntry r).state = .taken 1 :=
  ⟨rfl, rfl, by cases r <;> decide, rfl, draining_follows _ _, draining_taken _ _, draining_hasTraffic _ _,
    List.mem_singleton_self _, rfl, rfl, rfl, List.mem_singleton_self _, rfl⟩

/-- R122, R123: the last delivery applies the attach and answers the order DONE; R124: or frees the slot. -/
theorem test_last_delivery : ((after (.delivery .t1) (draining .gentle false)).slot 1).window =
      some { drainWindow false with state := .live, chain := [.mirror .t3, .translate 0x9000] } ∧
    (after (.delivery .t1) (draining .gentle false)).returns (.host .h0) = [.orderReply 9 0x0A .done []] ∧
    (after (.delivery .t1) (draining .gentle true)).slot 1 = ⟨8, 0, none⟩ ∧
    (after (.delivery .t1) (draining .gentle true)).dir.poolFree = 95 := by decide +kernel

/-- M has an answered order whose reply leads its return queue. -/
def replying : State :=
  (up.setOrders .mgmt [{ asked 0x04 [] with state := .answered }]).setReturns .mgmt [.orderReply 1 0x04 .done []]

/-- M's return queue holds a NOTICE while another is owed. -/
def noticing (pend : BitVec 12) : State :=
  { up.setReturns .mgmt [.notice 1] with events := { up.events with pending := pend, enabled := 1, noticeOwed := true } }

theorem test_witness_ReturnQueueSendsHead : fetching.returns (.host .h1) = .reply 1 33 .denied [] :: [] ∧
    fetching.ctl.phase = .running ∧ fetching.link (Source.host .h1).port = .up ∧
    fetching.ports.held.get (Source.host .h1).port ≠ 0 ∧ (∃ a, (fetching.entry 1).state = .answered a) ∧ NoHostWaits fetching ∧
    replying.returns .mgmt = .orderReply 1 0x04 .done [] :: [] ∧
    replying.orders .mgmt = [] ++ { asked 0x04 [] with state := .answered } :: [] ∧
    isAnsweredAs 1 { asked 0x04 [] with state := .answered } = true ∧
    (noticing 1).returns .mgmt = .notice 1 :: [] ∧ (noticing 1).events.noticeOwed = true ∧ (noticing 0).events.noticeOwed = true ∧
    (fetching.setHeld (.host .h1) 0).ports.held.get (Source.host .h1).port = 0 :=
  ⟨rfl, rfl, rfl, by decide, ⟨_, rfl⟩, by intro h; cases h <;> rfl, rfl, rfl, by decide, rfl, rfl, rfl, rfl⟩

/-- H0's return queue holds a notification POST while another is owed. -/
def notifying (pend : BitVec 12) : State :=
  { up.setReturns (.host .h0) [.notification 0x100 1] with
    events := { up.events with pending := pend, enabled := 1, setting := ⟨some .h0, 0x100, 0⟩, notificationOwed := true } }

/-- H1 waits with a FETCH, refused or forwarded, for the entry that its own REPLY frees; H0's owed notification. -/
theorem test_witness_ReturnQueueSendsHead_waiting : (∀ r, (contended r).returns (.host .h1) = .reply 1 33 .denied [] :: [] ∧
      (∃ x, ((contended r).entry 1).state = .answered x) ∧ FirstInTurn (.entry 1) (contended r) .h1) ∧
    lookup (contended (.fetch 9 0x5000 4)) .h1 (.fetch 9 0x5000 4) = .refused .noWindow ∧
    lookup (contended (.fetch 9 0x1000 4)) .h1 (.fetch 9 0x1000 4) = .forward ⟨.window ⟨0, 0⟩, .t0, 0x1000, none⟩ ∧
    (∀ i, currentTag ((contended (.fetch 9 0x1000 4)).entry i) ≠ some (.h1, 9)) ∧
    ((contended (.fetch 9 0x1000 4)).egress .t0).length < 16 ∧
    (notifying 1).returns (.host .h0) = .notification 0x100 1 :: [] ∧ (notifying 1).events.setting.host = some .h0 ∧
    (notifying 1).events.notificationOwed = true ∧ (notifying 0).events.notificationOwed = true :=
  ⟨fun r => ⟨rfl, ⟨_, rfl⟩, contended_first _ _ (.inl rfl)⟩, by decide +kernel, by decide +kernel, by decide +kernel, by decide,
    rfl, rfl, rfl, rfl⟩

/-- R46, R53: the FETCH takes the entry offered, under its new epoch; R184: the owed notification follows. -/
theorem test_entry_handed_out : (after (.returnQueueSending (.host .h1)) (contended (.fetch 33 0x1000 4))).entry 1 =
      ⟨3, .waiting ⟨.h1, 33, 0, false, 4, .window ⟨0, 0⟩, .t0, 5000⟩⟩ ∧
    (after (.returnQueueSending (.host .h1)) (contended (.fetch 33 0x1000 4))).table.position = .h1 ∧
    (after (.returnQueueSending (.host .h0)) (notifying 1)).returns (.host .h0) = [.notification 0x100 1] := by decide +kernel

/-- R65, R75: the sent REPLY frees its entry, the sent ORDER_REPLY its place, with one ORDER credit. -/
theorem test_return_queue : (after (.returnQueueSending (.host .h1)) fetching).entry 1 = ⟨3, .free⟩ ∧
    (after (.returnQueueSending .mgmt) replying).sent =
      [(.mgmt, .back (.orderReply 1 0x04 .done [])), (.mgmt, .credit .order 1)] := by decide +kernel

theorem test_witness_ReplyTimerExpires : fetching.ctl.phase = .running ∧
    (fetching.entry 0).state = .waiting ⟨.h0, 17, 0, false, 4, .window ⟨0, 0⟩, .t0, 5000⟩ ∧ NoHostWaits fetching ∧
    NoDrains fetching ∧ (∀ w, (fetching.entry 1).state ≠ .waiting w) ∧ ∀ w, (fetching.entry 47).state ≠ .waiting w := by
  refine ⟨rfl, rfl, by intro h; cases h <;> rfl, rfl, fun w hw => ?_, fun w hw => ?_⟩
  · exact absurd (fetching_waits 1 w (waitingOf_mem hw)).1 (by decide)
  · exact absurd (fetching_waits 47 w (waitingOf_mem hw)).1 (by decide)

theorem test_witness_ReplyTimerExpires_drain (m : Mode) (r o : Bool) : (ending m r .h1 o).ctl.phase = .running ∧
    ((ending m r .h1 o).entry 0).state = .waiting ⟨.h1, 17, 0, o, 4, .window ⟨1, 7⟩, .t1, 5000⟩ ∧
    LastOf (.window ⟨1, 7⟩) (drainJob m r) (drainWindow r) (drainEntry r) (ending m r .h1 o) := ⟨rfl, rfl, ending_last ..⟩

theorem test_witness_GentleDrainExpires (r : Bool) : (draining .gentle r).ctl.phase = .running ∧
    DrainsFollowWindows (draining .gentle r) ∧ TakenFollowsDrains (draining .gentle r) ∧
    drainJob .gentle r ∈ (draining .gentle r).eng.drains ∧ (drainJob .gentle r).mode = .gentle ∧
    ((draining .gentle r).slot (drainJob .gentle r).handle.slot).window = some (drainWindow r) ∧
    drainEntry r ∈ (draining .gentle r).orders (drainJob .gentle r).source ∧
    (drainEntry r).state = .taken (drainJob .gentle r).handle.slot :=
  ⟨rfl, draining_follows _ _, draining_taken _ _, List.mem_singleton_self _, rfl, rfl, List.mem_singleton_self _, rfl⟩

theorem test_witness_ForceDrainExpires (r : Bool) : (draining .force r).ctl.phase = .running ∧
    DrainsFollowWindows (draining .force r) ∧ TakenFollowsDrains (draining .force r) ∧ DrainingHasTraffic (draining .force r) ∧
    CountsMatch (draining .force r) ∧ EgressFollowsEntries (draining .force r) ∧
    drainJob .force r ∈ (draining .force r).eng.drains ∧ (drainJob .force r).mode = .force ∧
    ((draining .force r).slot (drainJob .force r).handle.slot).window = some (drainWindow r) ∧
    drainEntry r ∈ (draining .force r).orders (drainJob .force r).source ∧
    (drainEntry r).state = .taken (drainJob .force r).handle.slot ∧ NoHostWaits (draining .force r) :=
  ⟨rfl, draining_follows _ _, draining_taken _ _, draining_hasTraffic _ _, draining_countsMatch _ _, draining_egress _ _,
    List.mem_singleton_self _, rfl, rfl, List.mem_singleton_self _, rfl, by intro h; cases h <;> rfl⟩

/-- R125: an abandoned attach gives its record back; R126: a forced removal loses the POST and completes. -/
theorem test_drain_expiry : (after (.drainTimerExpiry 1) (draining .gentle false)).dir.poolFree = 94 ∧
    (after (.drainTimerExpiry 1) (draining .gentle false)).returns (.host .h0) = [.orderReply 9 0x0A .drainExpired []] ∧
    (after (.drainTimerExpiry 1) (draining .force true)).slot 1 = ⟨8, 0, none⟩ ∧
    (after (.drainTimerExpiry 1) (draining .force true)).events.details[Flag.postsLost.bit] = 0x020 := by decide +kernel

/-! ### Orders: which, and whether -/

theorem test_witness_ArbiterServesInTurn : nextOrder up = none ∧ up.eng.position = .host .h3 ∧
    nextOrder (asking (.host .h0) 0x04 [] (asking .mgmt 0x05 [] up)) = some (.mgmt, asked 0x05 []) ∧
    nextOrder ((asking (.host .h0) 0x04 [] (asking .mgmt 0x05 [] up)).setArbiter .mgmt) = some (.host .h0, asked 0x04 []) := by
  decide +kernel

/-- H1 with rights, barred or not. -/
def ruled (r : Rights) (barred : Bool) (s : State) : State :=
  { s with
    eng := { s.eng with rights := s.eng.rights.set .h1 r }
    ports := { s.ports with barredHost := ⟨false, barred, false, false⟩ } }

/-- What H1 asks for is decided next. -/
theorem h1_decides (o : OrderName) (b : List Byte) (r : Rights) (barred : Bool) :
    Decides (asking (.host .h1) (orderCode o) b (ruled r barred up)) (.host .h1) (asked (orderCode o) b) o := ⟨rfl, rfl, rfl⟩

theorem test_witness_SourceCheckRefuses :
    (∃ s e, Decides s (.host .h1) e .query ∧ s.ports.barredHost.get .h1 = true) ∧
    (∃ s e, Decides s (.host .h1) e .query ∧ s.ports.barredHost.get .h1 = false ∧ s.eng.rights.get .h1 = .none) ∧
    (∃ s e, Decides s (.host .h1) e .freeze ∧ s.ports.barredHost.get .h1 = false ∧ s.eng.rights.get .h1 ≠ .none ∧
      OrderName.cls .freeze = .management) ∧
    ∃ s e, Decides s (.host .h1) e .lock ∧ s.ports.barredHost.get .h1 = false ∧ s.eng.rights.get .h1 = .view ∧
      OrderName.cls .lock = .window :=
  ⟨⟨_, _, h1_decides .query [] .own true, rfl⟩, ⟨_, _, h1_decides .query [] .none false, rfl, rfl⟩,
    ⟨_, _, h1_decides .freeze [] .own false, rfl, by decide, rfl⟩, ⟨_, _, h1_decides .lock [] .view false, rfl, rfl, rfl⟩⟩

/-- A source's order on `s`, whose queues and position are those of `up`, is decided next. -/
theorem decides_on (s : State) (src : Source) (o : OrderName) (b : List Byte) (hr : s.ctl.phase = .running)
    (ho : s.eng.orders = up.eng.orders) (hp : s.eng.position = up.eng.position) :
    Decides (asking src (orderCode o) b s) src (asked (orderCode o) b) o := by
  refine ⟨hr, ?_, rfl⟩
  have h : ∀ k, (asking src (orderCode o) b s).orders k = (asking src (orderCode o) b up).orders k := by
    intro k
    unfold asking State.orders State.setOrders
    dsimp only
    rw [ho]
  have e : nextOrder (asking src (orderCode o) b s) = nextOrder (asking src (orderCode o) b up) := by
    unfold nextOrder oldestQueued
    rw [show (asking src (orderCode o) b s).eng.position = (asking src (orderCode o) b up).eng.position from hp]
    simp only [h]
  rw [e]
  rcases src with _ | k
  · rfl
  · cases k <;> rfl

/-- A window record and its generation in slot 0. -/
def owned (w : Window) (count : Nat) : State := up.setSlot 0 ⟨3, count, some w⟩

/-- A block that names slot 0, generation 3, with mode GENTLE and more. -/
def naming (xs : List (Nat × Byte)) : List Byte := block ((1, 3) :: xs)

/-- The refusals of the second to sixth checks, each in a state of its own, with the order that meets it. -/
theorem test_witness_LaterChecksRefuse :
    (∃ s e, Decides s .mgmt e .modify ∧ MayOrder s .mgmt .modify ∧ OrderName.changes .modify = true ∧ s.eng.frozen = true) ∧
    (∃ s e, Decides s .mgmt e .query ∧ OrderName.changes .query = false ∧ (blockByte e.block 0).toNat = (0 : Fin Config.slots).val ∧
      (s.slot 0).window = none) ∧
    (∃ s e w, Decides s .mgmt e .query ∧ (blockByte e.block 0).toNat = (0 : Fin Config.slots).val ∧ (s.slot 0).window = some w ∧
      (s.slot 0).generation ≠ blockByte e.block 1) ∧
    (∃ s e w, Decides s (.host .h1) e .retire ∧ MayOrder s (.host .h1) .retire ∧ s.eng.frozen = false ∧
      NamesWindow s e.block 0 w ∧ ¬Owns (.host .h1) w) ∧
    (∃ s e w, Decides s .mgmt e .retire ∧ s.eng.frozen = false ∧ NamesWindow s e.block 0 w ∧ Owns .mgmt w ∧ w.locked = true) ∧
    (∃ s e w, Decides s .mgmt e .lock ∧ s.eng.frozen = false ∧ NamesWindow s e.block 0 w ∧ Owns .mgmt w ∧
      isDraining w.state = true) ∧
    (∃ s e w, Decides s .mgmt e .activate ∧ s.eng.frozen = false ∧ NamesWindow s e.block 0 w ∧ Owns .mgmt w ∧ w.state = .live) ∧
    ∃ s e w, Decides s .mgmt e .lock ∧ s.eng.frozen = false ∧ NamesWindow s e.block 0 w ∧ Owns .mgmt w ∧ w.state = .staged :=
  ⟨⟨_, _, decides_on (setFrozen up) .mgmt .modify (naming []) rfl rfl rfl, trivial, rfl, rfl⟩,
    ⟨_, _, decides_on up .mgmt .query (naming []) rfl rfl rfl, rfl, by decide, rfl⟩,
    ⟨_, _, _, decides_on (owned (window .live) 0) .mgmt .query (block []) rfl rfl rfl, by decide, rfl, by decide⟩,
    ⟨_, _, _, decides_on (ruled .own false (owned (window .live) 0)) (.host .h1) .retire (naming []) rfl rfl rfl, ⟨rfl, rfl⟩, rfl,
      ⟨by decide, rfl, by decide⟩, by rintro (h | h) <;> cases h⟩,
    ⟨_, _, _, decides_on (owned { window .live with locked := true } 0) .mgmt .retire (naming []) rfl rfl rfl, rfl,
      ⟨by decide, rfl, by decide⟩, .inl rfl, rfl⟩,
    ⟨_, _, _, decides_on (owned (drainWindow true) 1) .mgmt .lock (naming []) rfl rfl rfl, rfl, ⟨by decide, rfl, by decide⟩,
      .inl rfl, rfl⟩,
    ⟨_, _, _, decides_on (owned (window .live) 0) .mgmt .activate (naming []) rfl rfl rfl, rfl, ⟨by decide, rfl, by decide⟩,
      .inl rfl, rfl⟩,
    ⟨_, _, _, decides_on (owned (window .staged) 0) .mgmt .lock (naming []) rfl rfl rfl, rfl, ⟨by decide, rfl, by decide⟩,
      .inl rfl, rfl⟩⟩

/-- One refusal of each kind, as answered (R83 to R86): the status of the reply at M's or H1's return queue. -/
theorem test_refusals : (after .modify (asking .mgmt 0x07 (naming []) (setFrozen up))).returns .mgmt = [.orderReply 1 0x07 .frozen []] ∧
    (after .query (asking .mgmt 0x01 (naming []) up)).returns .mgmt = [.orderReply 1 0x01 .notFound []] ∧
    (after .query (asking .mgmt 0x01 (block []) (owned (window .live) 0))).returns .mgmt = [.orderReply 1 0x01 .stale []] ∧
    (after .retire (asking (.host .h1) 0x08 (naming []) (ruled .own false (owned (window .live) 0)))).returns (.host .h1) =
      [.orderReply 1 0x08 .notOwner []] ∧
    (after .retire (asking .mgmt 0x08 (naming []) (owned { window .live with locked := true } 0))).returns .mgmt =
      [.orderReply 1 0x08 .locked []] ∧
    (after .lock (asking .mgmt 0x09 (naming []) (owned (drainWindow true) 1))).returns .mgmt = [.orderReply 1 0x09 .busy []] ∧
    (after .activate (asking .mgmt 0x06 (naming []) (owned (window .live) 0))).returns .mgmt = [.orderReply 1 0x06 .wrongState []] ∧
    (after .lock (asking .mgmt 0x09 (naming []) (owned (window .staged) 0))).returns .mgmt = [.orderReply 1 0x09 .wrongState []] := by
  decide +kernel

/-- An OPEN's block: T0, READWRITE, all hosts, [1000h, 1FFFh], initial state LIVE. -/
def openBlock : List Byte := block [(5, 4), (6, 3), (7, 15), (12, 0x10), (18, 0x1F), (19, 0xFF), (20, 2)]

theorem openBlock_reads (src : Source) : openOperands openBlock src = some { window .live with owner := src } := by
  rcases src with _ | h
  · decide +kernel
  · cases h <;> decide +kernel

/-- All 64 slots hold a window outside the range of `openBlock`. -/
def packed : State :=
  { up with dir := { up.dir with slots := .replicate _ ⟨0, 0, some { window .live with base := 0x8000, limit := 0x8FFF }⟩ } }

/-- A LIVE window with traffic while eight drains run. -/
def eightDrains : State :=
  { owned (window .live) 1 with eng := { up.eng with drains := List.replicate 8 (drainJob .gentle true) } }

theorem test_witness_OperandsAndResourcesRefuse :
    (∃ s e, Decides s .mgmt e .query ∧ MayOrder s .mgmt .query ∧ 64 ≤ (blockByte e.block 0).toNat) ∧
    (∃ s e, Decides s .mgmt e .openWindow ∧ s.eng.frozen = false ∧ openOperands e.block .mgmt = none) ∧
    (∃ s e w, Decides s (.host .h1) e .openWindow ∧ MayOrder s (.host .h1) .openWindow ∧ s.eng.frozen = false ∧
      openOperands e.block (.host .h1) = some w ∧ insideAllotment (s.eng.allotment.get .h1) (currentSpan w) = false) ∧
    (∃ s e w, Decides s .mgmt e .openWindow ∧ s.eng.frozen = false ∧ openOperands e.block .mgmt = some w ∧
      overlapsOther s none (currentSpan w) = true) ∧
    (∃ s e w, Decides s .mgmt e .openWindow ∧ s.eng.frozen = false ∧ openOperands e.block .mgmt = some w ∧
      overlapsOther s none (currentSpan w) = false ∧ ∀ i, (s.slot i).window ≠ none) ∧
    ∃ s e w, Decides s .mgmt e .retire ∧ MayChangeWindow s .mgmt e 0 w ∧ w.state = .live ∧ (s.slot 0).count ≠ 0 ∧
      Config.drainPlaces ≤ s.eng.drains.length ∧ (modeOf e.block).isSome = true :=
  ⟨⟨_, _, decides_on up .mgmt .query (block [(0, 64)]) rfl rfl rfl, trivial, by decide⟩,
    ⟨_, _, decides_on up .mgmt .openWindow (block []) rfl rfl rfl, rfl, by decide +kernel⟩,
    ⟨_, _, _, decides_on (ruled .own false up) (.host .h1) .openWindow openBlock rfl rfl rfl, ⟨rfl, rfl⟩, rfl, openBlock_reads _, rfl⟩,
    ⟨_, _, _, decides_on (holding .live 0) .mgmt .openWindow openBlock rfl rfl rfl, rfl, openBlock_reads _, by decide +kernel⟩,
    ⟨_, _, _, decides_on packed .mgmt .openWindow openBlock rfl rfl rfl, rfl, openBlock_reads _, by decide +kernel,
      by decide +kernel⟩,
    ⟨_, _, _, decides_on eightDrains .mgmt .retire (naming []) rfl rfl rfl,
      ⟨trivial, rfl, ⟨by decide, rfl, by decide⟩, .inl rfl, rfl, .inr rfl⟩, rfl, by decide, by decide, by decide⟩⟩

/-- The same for the operands of management orders and of changes of a window: a limit that reaches into slot 1, a kind the chain
has, an empty pool, a kind the chain has not, and no mode. -/
theorem test_witness_OperandsAndResourcesRefuse_changes :
    (∃ s e, Decides s .mgmt e .setFallback ∧ s.eng.frozen = false ∧ fallbackOperand e.block = none) ∧
    (∃ s e w f, Decides s .mgmt e .modify ∧ MayChangeWindow s .mgmt e 0 w ∧ (modeOf e.block).isSome = true ∧
      modifyOperands e.block = some f ∧ modifyIsBad f w = false ∧ f.movesRange = true ∧ (∀ h, w.owner ≠ .host h) ∧
      overlapsOther s (some 0) (modifiedSpan f w) = true) ∧
    (∃ s e w r, Decides s .mgmt e .attach ∧ MayChangeWindow s .mgmt e 0 w ∧ (modeOf e.block).isSome = true ∧
      attachOperands e.block w = some r ∧ r.kind ∈ w.chain.map ExtRecord.kind) ∧
    (∃ s e w r, Decides s .mgmt e .attach ∧ MayChangeWindow s .mgmt e 0 w ∧ (modeOf e.block).isSome = true ∧
      attachOperands e.block w = some r ∧ r.kind ∉ w.chain.map ExtRecord.kind ∧ s.dir.poolFree = 0) ∧
    (∃ s e w, Decides s .mgmt e .detach ∧ MayChangeWindow s .mgmt e 0 w ∧ (modeOf e.block).isSome = true ∧
      ∀ k, kindOf e.block = some k → k ∉ w.chain.map ExtRecord.kind) ∧
    (∃ s e w, Decides s .mgmt e .retire ∧ MayChangeWindow s .mgmt e 0 w ∧ modeOf e.block = none) ∧
    (∃ s e w, Decides s .mgmt e .modify ∧ MayChangeWindow s .mgmt e 0 w ∧ supplied e.block 2 = true ∧ targetOf e.block = none) ∧
    (∃ s e w, Decides s .mgmt e .modify ∧ MayChangeWindow s .mgmt e 0 w ∧ supplied e.block 3 = true ∧ accessOf e.block = none) ∧
    ∃ s e w, Decides s .mgmt e .modify ∧ MayChangeWindow s .mgmt e 0 w ∧ supplied e.block 4 = true ∧ usersOf e.block = none :=
  ⟨⟨_, _, decides_on up .mgmt .setFallback (block [(5, 3)]) rfl rfl rfl, rfl, by decide +kernel⟩,
    ⟨_, _, { window .live with owner := .mgmt }, ⟨none, some 0x3FFF, none, none, none⟩,
      decides_on ((owned { window .live with owner := .mgmt } 0).setSlot 1 ⟨0, 0, some { window .live with base := 0x3000, limit := 0x3FFF }⟩)
        .mgmt .modify (naming [(4, 2), (18, 0x3F), (19, 0xFF)]) rfl rfl rfl,
      ⟨trivial, rfl, ⟨by decide, rfl, by decide⟩, .inl rfl, rfl, .inr rfl⟩, by decide, by decide +kernel, by decide, by decide,
      (fun h e => nomatch e), by decide +kernel⟩,
    ⟨_, _, { window .live with chain := [.translate 0x8000] }, .translate 0x9000,
      decides_on (owned { window .live with chain := [.translate 0x8000] } 0) .mgmt .attach (naming [(3, 1), (12, 0x90)]) rfl rfl rfl,
      ⟨trivial, rfl, ⟨by decide, rfl, by decide⟩, .inl rfl, rfl, .inr rfl⟩, by decide, by decide +kernel, by decide⟩,
    ⟨_, _, window .live, .translate 0x9000,
      decides_on ((owned (window .live) 0).setPoolFree 0) .mgmt .attach (naming [(3, 1), (12, 0x90)]) rfl rfl rfl,
      ⟨trivial, rfl, ⟨by decide, rfl, by decide⟩, .inl rfl, rfl, .inr rfl⟩, by decide, by decide +kernel, by decide, rfl⟩,
    ⟨_, _, window .live, decides_on (owned (window .live) 0) .mgmt .detach (naming [(3, 1)]) rfl rfl rfl,
      ⟨trivial, rfl, ⟨by decide, rfl, by decide⟩, .inl rfl, rfl, .inr rfl⟩, by decide, fun _ _ h => by cases h⟩,
    ⟨_, _, window .live, decides_on (owned (window .live) 0) .mgmt .retire (naming [(2, 2)]) rfl rfl rfl,
      ⟨trivial, rfl, ⟨by decide, rfl, by decide⟩, .inl rfl, rfl, .inr rfl⟩, by decide⟩,
    ⟨_, _, window .live, decides_on (owned (window .live) 0) .mgmt .modify (naming [(4, 4), (5, 9)]) rfl rfl rfl,
      ⟨trivial, rfl, ⟨by decide, rfl, by decide⟩, .inl rfl, rfl, .inr rfl⟩, by decide, by decide⟩,
    ⟨_, _, window .live, decides_on (owned (window .live) 0) .mgmt .modify (naming [(4, 8), (6, 0)]) rfl rfl rfl,
      ⟨trivial, rfl, ⟨by decide, rfl, by decide⟩, .inl rfl, rfl, .inr rfl⟩, by decide, by decide⟩,
    ⟨_, _, window .live, decides_on (owned (window .live) 0) .mgmt .modify (naming [(4, 16), (7, 0x10)]) rfl rfl rfl,
      ⟨trivial, rfl, ⟨by decide, rfl, by decide⟩, .inl rfl, rfl, .inr rfl⟩, by decide, by decide⟩⟩

/-- R87 to R89: the statuses of these refusals. -/
theorem test_operand_refusals : (after .query (asking .mgmt 0x01 (block [(0, 64)]) up)).returns .mgmt = [.orderReply 1 0x01 .badOperand []] ∧
    (after .openWindow (asking (.host .h1) 0x05 openBlock (ruled .own false up))).returns (.host .h1) =
      [.orderReply 1 0x05 .outsideAllotment []] ∧
    (after .openWindow (asking .mgmt 0x05 openBlock (holding .live 0))).returns .mgmt = [.orderReply 1 0x05 .overlap []] ∧
    (after .openWindow (asking .mgmt 0x05 openBlock packed)).returns .mgmt = [.orderReply 1 0x05 .noSlot []] ∧
    (after .retire (asking .mgmt 0x08 (naming []) eightDrains)).returns .mgmt = [.orderReply 1 0x08 .busy []] := by decide +kernel

theorem test_witness_UnknownOrderAnswered :
    nextOrder (asking (.host .h1) 0x18 [] (ruled .none true up)) = some (.host .h1, asked 0x18 []) ∧
    nextOrder (asking .mgmt 0x00 [] up) = some (.mgmt, asked 0x00 []) ∧ 0x18 ≤ (asked 0x18 []).code.toNat ∧
    (asked 0x00 []).code = 0 ∧ 0x18 ≤ (asked 0xFF []).code.toNat := by decide +kernel

/-! ### Orders carried out -/

theorem test_witness_ViewOrdersAnswer :
    (∃ s e w, MayView s .mgmt ∧ Decides s .mgmt e .query ∧ NamesWindow s e.block 0 w) ∧
    (∃ s e, MayView s (.host .h1) ∧ Decides s (.host .h1) e .find) ∧ (∃ s e, MayView s .mgmt ∧ Decides s .mgmt e .list) ∧
    ∃ s e, MayView s .mgmt ∧ Decides s .mgmt e .readStatus :=
  ⟨⟨_, _, _, trivial, decides_on (owned (window .live) 1) .mgmt .query (naming []) rfl rfl rfl, ⟨by decide, rfl, by decide⟩⟩,
    ⟨_, _, ⟨rfl, by decide⟩, h1_decides .find [] .view false⟩, ⟨_, _, trivial, decides_on up .mgmt .list [] rfl rfl rfl⟩,
    ⟨_, _, trivial, decides_on up .mgmt .readStatus [] rfl rfl rfl⟩⟩

/-- A part whose DRAINING, LIVE and STAGED windows the results speak of, with an address inside and one outside each range. -/
theorem test_witness_ViewOrdersAnswer_results : RangesDisjoint (draining .force false) ∧ WindowsFit (draining .force false) ∧
    DrainsFollowWindows (draining .force false) ∧ drainJob .force false ∈ (draining .force false).eng.drains ∧
    ((draining .force false).slot 1).window = some (drainWindow false) ∧ ReservedAt (draining .force false) 1 0x2FFF ∧
    ∀ i, ¬ReservedAt (draining .force false) i 0x3000 := by
  refine ⟨draining_rangesDisjoint, draining_windowsFit _ _, draining_follows _ _, List.mem_singleton_self _, rfl,
    ⟨⟨0x2000, 0x2FFF⟩, by decide, by decide, by decide⟩, ?_⟩
  have h : ∀ i, ¬∃ p ∈ slotReserved ((draining .force false).slot i), p.first ≤ 0x3000 ∧ 0x3000 ≤ p.last := by decide +kernel
  exact h

/-- R99, R100: FIND on a DRAINING window and on an unclaimed address, and LIST from 4000h. -/
theorem test_find_and_list : findBytes (draining .force false) 0x2FFF = [1, 1, 7, 3] ∧ findBytes (draining .force false) 0x3000 = [2, 0] ∧
    listBytes (draining .force false) 0x4000 = [2, 2, 0, 0, 0, 0, 0, 0x40, 0, 3, 0, 0, 0, 0, 0, 0x60, 0, 0] := by decide +kernel

/-- R98: handle, state LIVE, bounds, T0, READWRITE, users, owner H0, not locked, count 1, no chain. -/
theorem test_query_bytes : queryBytes (owned (window .live) 1) 0 (window .live) =
    [0, 3, 2, 0, 0, 0, 0, 0x10, 0, 0, 0, 0, 0, 0x1F, 0xFF, 4, 3, 15, 0, 0, 1, 0] := by decide

theorem test_witness_OpenFillsLowestFreeSlot : ∃ s e w, Decides s .mgmt e .openWindow ∧ MayChange s .mgmt ∧ s.eng.frozen = false ∧
    openOperands e.block .mgmt = some w ∧ overlapsOther s none (currentSpan w) = false ∧ (s.slot 0).window = none ∧
    ∀ k, k < (0 : Fin Config.slots) → (s.slot k).window ≠ none :=
  ⟨_, _, _, decides_on up .mgmt .openWindow openBlock rfl rfl rfl, trivial, rfl, openBlock_reads _, by decide +kernel, rfl,
    fun k h => absurd h (Nat.not_lt_zero _)⟩

/-- R2, R90: the slot and the handle of an OPEN after slot 0. -/
theorem test_open : (after .openWindow (asking .mgmt 0x05 openBlock
      (up.setSlot 0 ⟨9, 0, some { window .live with base := 0x8000, limit := 0x8FFF }⟩))).returns .mgmt =
    [.orderReply 1 0x05 .done [1, 0]] := by decide +kernel

theorem test_witness_ActivateAndLockAct :
    (∃ s e w, MayChange s .mgmt ∧ s.eng.frozen = false ∧ NamesWindow s e.block 0 w ∧ Owns .mgmt w ∧ Decides s .mgmt e .activate ∧
      w.state = .staged) ∧
    ∃ s e w, MayChange s .mgmt ∧ s.eng.frozen = false ∧ NamesWindow s e.block 0 w ∧ Owns .mgmt w ∧ Decides s .mgmt e .lock ∧
      w.state = .live :=
  ⟨⟨_, _, _, trivial, rfl, ⟨by decide, rfl, by decide⟩, .inl rfl,
      decides_on (owned (window .staged) 0) .mgmt .activate (naming []) rfl rfl rfl, rfl⟩,
    ⟨_, _, _, trivial, rfl, ⟨by decide, rfl, by decide⟩, .inl rfl,
      decides_on (owned (window .live) 0) .mgmt .lock (naming []) rfl rfl rfl, rfl⟩⟩

/-- Blocks on slot 0 that change its target to T2, attach a TRANSLATE record to 9000h, and detach one. -/
def targetBlock : List Byte := naming [(4, 4), (5, 6)]

def attachBlock : List Byte := naming [(3, 1), (12, 0x90)]

def detachBlock : List Byte := naming [(3, 1)]

/-- The changes those blocks ask for, with M's order queued, on a window with or without the record. -/
theorem changes_pass (count : Nat) :
    ChangePasses .modify (asking .mgmt (orderCode .modify) targetBlock (owned (window .live) count)) 0 (window .live) targetBlock
      (.modify ⟨none, none, some .t2, none, none⟩) .gentle ∧
    ChangePasses .attach (asking .mgmt (orderCode .attach) attachBlock (owned (window .live) count)) 0 (window .live) attachBlock
      (.attach (.translate 0x9000)) .gentle ∧
    ChangePasses .detach (asking .mgmt (orderCode .detach) detachBlock
        (owned { window .live with chain := [.translate 0x9000] } count)) 0
      { window .live with chain := [.translate 0x9000] } detachBlock (.detach .translate) .gentle :=
  ⟨⟨by decide, .inl ⟨rfl, _, by decide +kernel, rfl, by decide +kernel, fun h => absurd h (by decide)⟩⟩,
    ⟨by decide, .inr (.inl ⟨rfl, _, by decide +kernel, rfl, by decide, show Config.poolRecords ≠ 0 by decide⟩)⟩,
    ⟨by decide, .inr (.inr ⟨rfl, _, by decide, rfl, by decide⟩)⟩⟩

theorem owned_mayChange (w : Window) (count : Nat) (code : Byte) (b : List Byte) (hb : (blockByte b 0).toNat = 0)
    (hg : blockByte b 1 = 3) (hl : w.locked = false) (hs : w.state = .staged ∨ w.state = .live) :
    MayChangeWindow (asking .mgmt code b (owned w count)) .mgmt (asked code b) 0 w :=
  ⟨trivial, rfl, ⟨hb, rfl, hg.symm⟩, .inl rfl, hl, hs⟩

theorem owned_fits (count : Nat) (code : Byte) (b : List Byte) : WindowsFit (asking .mgmt code b (owned (window .live) count)) := by
  intro i w hw
  have hw : ((owned (window .live) count).slot i).window = some w := hw
  have key : i = 0 ∧ w = window .live := by
    unfold owned at hw
    rw [State.setSlot_slot] at hw
    split at hw
    · next h => cases hw; exact ⟨h, rfl⟩
    · have n : ∀ i, (up.slot i).window = none := by decide +kernel
      rw [n] at hw; cases hw
  obtain ⟨rfl, rfl⟩ := key
  refine ⟨⟨by decide, by decide, by decide, by decide, ?_, ?_, ?_⟩, fun c hc => by cases hc⟩ <;>
    intro x hx <;> simp [window] at hx

theorem test_witness_ChangesApplyAtOnce :
    (∃ s e w c m, WindowsFit s ∧ MayChangeWindow s .mgmt e 0 w ∧ Decides s .mgmt e .modify ∧ ChangePasses .modify s 0 w e.block c m ∧
      (s.slot 0).count = 0) ∧
    (∃ s e w c m, WindowsFit s ∧ MayChangeWindow s .mgmt e 0 w ∧ Decides s .mgmt e .attach ∧ ChangePasses .attach s 0 w e.block c m ∧
      (s.slot 0).count = 0) ∧
    (∃ s e w, WindowsFit s ∧ MayChangeWindow s .mgmt e 0 w ∧ Decides s .mgmt e .retire ∧ (modeOf e.block).isSome = true ∧
      (s.slot 0).count = 0) ∧
    isRouting (.modify ⟨none, none, none, some .read, none⟩) = false :=
  ⟨⟨_, _, _, _, _, owned_fits 0 _ _, owned_mayChange _ 0 _ _ (by decide) (by decide) rfl (.inr rfl),
      decides_on (owned (window .live) 0) .mgmt .modify _ rfl rfl rfl, (changes_pass 0).1, rfl⟩,
    ⟨_, _, _, _, _, owned_fits 0 _ _, owned_mayChange _ 0 _ _ (by decide) (by decide) rfl (.inr rfl),
      decides_on (owned (window .live) 0) .mgmt .attach _ rfl rfl rfl, (changes_pass 0).2.1, rfl⟩,
    ⟨_, _, _, owned_fits 0 _ _, owned_mayChange _ 0 _ (naming []) (by decide) (by decide) rfl (.inr rfl),
      decides_on (owned (window .live) 0) .mgmt .retire _ rfl rfl rfl, by decide, rfl⟩, rfl⟩

/-- R94, R112, R114, R16: MODIFY, ATTACH, DETACH and RETIRE on a window without traffic. -/
theorem test_changes : ((after .modify (asking .mgmt 0x07 targetBlock (owned (window .live) 0))).slot 0).window =
      some { window .live with target := .t2 } ∧
    (after .attach (asking .mgmt 0x0A attachBlock (owned (window .live) 0))).dir.poolFree = 95 ∧
    (after .detach (asking .mgmt 0x0B detachBlock ((owned { window .live with chain := [.translate 0x9000] } 0).setPoolFree 95))).dir.poolFree = 96 ∧
    (after .retire (asking .mgmt 0x08 (naming []) (owned (window .live) 0))).slot 0 = ⟨4, 0, none⟩ := by decide +kernel

theorem test_witness_RoutingChangesStartDrains :
    (∃ s e w c m, MayChangeWindow s .mgmt e 0 w ∧ DrainsNow s 0 w ∧ Decides s .mgmt e .modify ∧ ChangePasses .modify s 0 w e.block c m ∧
      isRouting c = true) ∧
    (∃ s e w c m, MayChangeWindow s .mgmt e 0 w ∧ DrainsNow s 0 w ∧ Decides s .mgmt e .attach ∧ ChangePasses .attach s 0 w e.block c m ∧
      isRouting c = true) ∧
    (∃ s e w c m, MayChangeWindow s .mgmt e 0 w ∧ DrainsNow s 0 w ∧ Decides s .mgmt e .detach ∧ ChangePasses .detach s 0 w e.block c m ∧
      isRouting c = true) ∧
    ∃ s e w m, MayChangeWindow s .mgmt e 0 w ∧ DrainsNow s 0 w ∧ Decides s .mgmt e .retire ∧ modeOf e.block = some m :=
  ⟨⟨_, _, _, _, _, owned_mayChange _ 2 _ _ (by decide) (by decide) rfl (.inr rfl), ⟨rfl, Nat.succ_ne_zero 1, by decide⟩,
      decides_on (owned (window .live) 2) .mgmt .modify _ rfl rfl rfl, (changes_pass 2).1, rfl⟩,
    ⟨_, _, _, _, _, owned_mayChange _ 2 _ _ (by decide) (by decide) rfl (.inr rfl), ⟨rfl, Nat.succ_ne_zero 1, by decide⟩,
      decides_on (owned (window .live) 2) .mgmt .attach _ rfl rfl rfl, (changes_pass 2).2.1, rfl⟩,
    ⟨_, _, _, _, _, owned_mayChange _ 2 _ _ (by decide) (by decide) rfl (.inr rfl), ⟨rfl, Nat.succ_ne_zero 1, by decide⟩,
      decides_on (owned { window .live with chain := [.translate 0x9000] } 2) .mgmt .detach _ rfl rfl rfl, (changes_pass 2).2.2, rfl⟩,
    ⟨_, _, _, .gentle, owned_mayChange _ 2 _ (naming []) (by decide) (by decide) rfl (.inr rfl),
      ⟨rfl, Nat.succ_ne_zero 1, by decide⟩, decides_on (owned (window .live) 2) .mgmt .retire _ rfl rfl rfl, by decide⟩⟩

/-- R119: the job that a RETIRE on a window with traffic starts. -/
theorem test_drain_start : (after .retire (asking .mgmt 0x08 (naming [(2, 1)]) (owned (window .live) 2))).eng.drains =
      [⟨⟨0, 3⟩, .retire, .force, .mgmt, 1, 0x08, 200⟩] ∧
    (after .retire (asking .mgmt 0x08 (naming [(2, 1)]) (owned (window .live) 2))).returns .mgmt = [] := by decide +kernel

/-- M's management orders with operands that they take. -/
theorem test_witness_SettingOrdersWrite : (∀ o b, Decides (asking .mgmt (orderCode o) b up) .mgmt (asked (orderCode o) b) o) ∧
    up.eng.frozen = false ∧ fallbackOperand (block [(5, 15)]) = some none ∧ fallbackOperand (block [(5, 7)]) = some (some .t3) ∧
    rightsOperands (block [(5, 3), (21, 2), (22, 1)]) = some (.h3, .own, none) ∧ barOperand (block [(5, 0)]) = some (.host .h0) ∧
    barOperand (block [(5, 7)]) = some (.target .t3) ∧ 1 ≤ (replyLimitOf (block [(33, 1)])).toNat ∧
    (drainLimitOf (block [(34, 0x0F), (35, 0xFF)])).toNat = 4095 ∧
    notifyOperands (block [(5, 15)]) = some ⟨none, 0, 0⟩ ∧ notifyOperands (block [(5, 3), (41, 9)]) = some ⟨some .h3, 0, 9⟩ :=
  ⟨fun o b => decides_on up .mgmt o b rfl rfl rfl, rfl, by decide +kernel, by decide +kernel, by decide +kernel, by decide +kernel,
    by decide +kernel, by decide +kernel, by decide +kernel, by decide +kernel, by decide +kernel⟩

/-- R189: a drain limit of 4096 ms is refused, one of 4095 ms is written. -/
theorem test_set_timers : (after .setTimers (asking .mgmt 0x15 (block [(33, 1), (34, 0x10)]) up)).returns .mgmt =
      [.orderReply 1 0x15 .badOperand []] ∧
    (after .setTimers (asking .mgmt 0x15 (block [(33, 1), (34, 0x0F), (35, 0xFF)]) up)).eng.drainLimit = 4095 := by decide +kernel

theorem test_witness_EventOrdersAct : (∀ o b s, s = up ∨ s = noticing 0x801 →
      Decides (asking .mgmt (orderCode o) b s) .mgmt (asked (orderCode o) b) o) ∧
    up.events.pending &&& flagSetOf (block [(37, 1)]) &&& ~~~up.events.enabled = 0 ∧
    (noticing 0x801).events.pending &&& flagSetOf (block [(36, 0x08)]) &&& ~~~(noticing 0x801).events.enabled ≠ 0 ∧
    up.link .mgmt = .up ∧ (up.returns .mgmt).any isNotice = false := by
  refine ⟨?_, by decide +kernel, by decide +kernel, rfl, rfl⟩
  rintro o b s (rfl | rfl) <;> exact decides_on _ .mgmt o b rfl rfl rfl

/-- R187: enabling a pending flag is an occasion, whose NOTICE stands behind the order's own reply. -/
theorem test_enabling_is_an_occasion :
    (after .setEventEnables (asking .mgmt 0x13 (block [(36, 0x08), (37, 0x01)])
      { up with events := { up.events with pending := 0x801, enabled := 1 } })).returns .mgmt =
      [.orderReply 1 0x13 .done [0, 1], .notice 0x801] := by decide +kernel

/-- R183: the notified host gets the data base plus 1, the number of RESET_SEEN, and a barred one nothing. -/
theorem test_enabling_notifies_host (barred : Bool) : (after .setEventEnables (asking .mgmt 0x13 (block [(37, 0x01)])
      { up with
        ports := { up.ports with barredHost := ⟨barred, false, false, false⟩ }
        events := { up.events with pending := 0x801, enabled := 0, setting := ⟨some .h0, 0x7000, 0x100⟩ } })).returns (.host .h0) =
      if barred then [] else [.notification 0x7000 0x101] := by cases barred <;> decide +kernel

theorem test_witness_PathResetActs : Decides (asking .mgmt (orderCode .resetPaths) [] (draining .gentle true)) .mgmt
      (asked (orderCode .resetPaths) []) .resetPaths ∧
    CountsMatch (asking .mgmt (orderCode .resetPaths) [] (draining .gentle true)) ∧
    DrainsFollowWindows (asking .mgmt (orderCode .resetPaths) [] (draining .gentle true)) ∧
    TakenFollowsDrains (asking .mgmt (orderCode .resetPaths) [] (draining .gentle true)) := by
  refine ⟨⟨rfl, rfl, rfl⟩, ?_, ?_, ?_⟩
  · obtain ⟨a, b, c, d, e⟩ := draining_countsMatch .gentle true
    exact ⟨a, b, c, d, e⟩
  · obtain ⟨a, b, c, d⟩ := draining_follows .gentle true
    exact ⟨a, b, c, d⟩
  · obtain ⟨a, b, c⟩ := draining_taken .gentle true
    refine ⟨fun j hj => ?_, fun src i => ?_, fun src x hx i hi => ?_⟩
    · cases List.mem_singleton.1 hj
      exact ⟨drainEntry true, List.mem_singleton_self _, rfl, rfl, rfl⟩
    · rcases src with _ | h
      · exact Nat.zero_le 1
      · exact b (.host h) i
    · rcases src with _ | h
      · cases List.mem_singleton.1 hx; cases hi
      · exact c (.host h) x hx i hi

/-- R193: the counts of a path reset: no entry, one POST, one drain job. -/
theorem test_path_reset : (after .resetPaths (asking .mgmt 0x16 [] (draining .gentle true))).returns .mgmt =
      [.orderReply 1 0x16 .done [0, 1, 1]] ∧
    (after .resetPaths (asking .mgmt 0x16 [] (draining .gentle true))).events.pending.getLsbD 3 = true ∧
    (after .resetPaths (asking .mgmt 0x16 [] (draining .gentle true))).ctl.cause = ⟨true, false, true⟩ := by decide +kernel

end Sys2Proof.Tests
end

section
/-! SUPPORT. What the offers of an event put into egress queues (chapter 2), the completion of one drain (chapter 6), and what an
entry that leaves WAITING leaves behind once drains and offers have followed (chapter 3). -/

namespace Sys2Proof.Machine

/-! ### Offers, once for every relation that each of their moves keeps -/

section offers

variable {R : State → State → Prop} (refl : ∀ s, R s s) (trans : ∀ s t u, R s t → R t u → R s u)
  (attempts : ∀ h o s, R s (attempt h o s))

include refl trans attempts

theorem rel_offerEntryTo (serves : ∀ h s, R s (s.setEntryPosition h)) (i : Fin Config.replyEntries) (hs : List HostId)
    (s : State) : R s (offerEntryTo i hs s) := by
  induction hs generalizing s with
  | nil => exact refl s
  | cons h hs ih =>
    unfold offerEntryTo
    split
    · dsimp only
      split
      · exact trans _ _ _ (attempts h _ s) (ih _)
      · exact trans _ _ _ (attempts h _ s) (serves h _)
    · exact ih s

theorem rel_offerPlaceTo (serves : ∀ g h s, R s (s.setEgressPosition g h)) (g : TargetId) (hs : List HostId) (s : State) :
    R s (offerPlaceTo g hs s) := by
  induction hs generalizing s with
  | nil => exact refl s
  | cons h hs ih =>
    unfold offerPlaceTo
    split
    · dsimp only
      split
      · exact trans _ _ _ (attempts h _ s) (serves g h _)
      · exact trans _ _ _ (attempts h _ s) (ih _)
    · exact ih s

theorem rel_offerPlaces (serves : ∀ g h s, R s (s.setEgressPosition g h)) (g : TargetId) (n : Nat) (s : State) :
    R s (offerPlaces g n s) := by
  induction n generalizing s with
  | zero => exact refl s
  | succ n ih => exact trans _ _ _ (rel_offerPlaceTo refl trans attempts serves g _ s) (ih _)

/-- A reflexive and transitive relation that every attempt and every move of a position keeps holds across an event's offers. -/
theorem rel_offerFreed (servesEntry : ∀ h s, R s (s.setEntryPosition h))
    (servesPlace : ∀ g h s, R s (s.setEgressPosition g h)) (before s : State) :
    R s (offerFreed before s) := by
  unfold offerFreed
  refine trans _ _ _ (foldl_rel refl trans (fun s' i => offerEntry i s')
    (fun b i => rel_offerEntryTo refl trans attempts servesEntry i _ b) (freedEntries before s) s) ?_
  exact foldl_rel refl trans _ (fun b g => rel_offerPlaces refl trans attempts servesPlace g _ b) _ _

end offers

/-! ### The FETCHes that offers put into egress queues -/

/-- A FETCH that has come into an egress queue is that of an entry that was FREE, under the entry's epoch (R53, R55). -/
def FetchesFresh (s t : State) : Prop :=
  ∀ g i ep a n, .fetch i ep a n ∈ t.egress g →
    .fetch i ep a n ∈ s.egress g ∨ (s.entry i).state = .free ∧ ep = (s.entry i).epoch

theorem FetchesFresh.of_egress {s t : State} (h : t.ports.egress = s.ports.egress) : FetchesFresh s t := by
  intro g i ep a n hm
  unfold State.egress at *
  exact .inl (h ▸ hm)

theorem FetchesFresh.trans {s t u : State} (m : TrafficMoves s t) (a : FetchesFresh s t) (b : FetchesFresh t u) :
    FetchesFresh s u := by
  intro g i ep x n hm
  rcases b g i ep x n hm with old | ⟨hfree, hep⟩
  · exact a g i ep x n old
  · refine .inr ⟨?_, hep.trans (m.epochs i)⟩
    by_contra hne
    exact hne (m.entries i hne ▸ hfree)

theorem mem_pushEgress {g k : TargetId} {x pkt : EgressPacket} {s : State} (h : pkt ∈ (pushEgress g x s).egress k) :
    pkt ∈ s.egress k ∨ k = g ∧ pkt = x := by
  unfold pushEgress at h
  by_cases e : k = g
  · subst e
    rw [State.setEgress_egress_self, List.mem_append, List.mem_singleton] at h
    exact h.imp_right fun hx => ⟨rfl, hx⟩
  · rw [State.setEgress_egress_ne _ _ _ e] at h
    exact .inl h

@[simp] theorem raiseCount_egress (r : Route) (s : State) (g : TargetId) : (raiseCount r s).egress g = s.egress g := by
  cases r <;> rfl

theorem mem_of_fetch_mem_placePost (h : HostId) (d : List Byte) (hop : Hop) (g : TargetId) (s : State) :
    ∀ k i ep a n, .fetch i ep a n ∈ (placePost h d hop g s).egress k → .fetch i ep a n ∈ s.egress k := by
  intro k i ep a n hm
  unfold placePost at hm
  rw [raiseCount_egress] at hm
  rcases mem_pushEgress hm with old | ⟨-, new⟩
  · exact old
  · cases new

theorem fresh_forwardPost (h : HostId) (d : List Byte) (hop : Hop) (s : State) : FetchesFresh s (forwardPost h d hop s) := by
  have first := mem_of_fetch_mem_placePost h d hop hop.target s
  intro g i ep a n hm
  refine .inl ?_
  unfold forwardPost at hm
  dsimp only at hm
  split at hm
  · exact first g i ep a n (mem_of_fetch_mem_placePost h d hop _ _ g i ep a n hm)
  · split at hm <;> exact first g i ep a n hm

theorem fresh_forwardFetch (h : HostId) (tag : BitVec 8) (len : Nat) (hop : Hop) (j : Fin Config.replyEntries) (s : State)
    (hf : (s.entry j).state = .free) : FetchesFresh s (forwardFetch h tag len hop j s) := by
  intro g i ep a n hm
  unfold forwardFetch at hm
  rw [raiseCount_egress] at hm
  rcases mem_pushEgress hm with old | ⟨-, new⟩
  · exact .inl old
  · cases new
    exact .inr ⟨hf, rfl⟩

theorem fresh_carryOut (h : HostId) (o : Option (Fin Config.replyEntries)) (plan : Plan) (s : State) :
    FetchesFresh s (carryOut h o plan s) := by
  unfold carryOut
  split
  · exact .of_egress rfl
  · exact .of_egress rfl
  · split <;> exact .of_egress rfl
  · split
    · next i hi => exact fresh_forwardFetch _ _ _ _ _ _ (entryFor_free hi)
    · exact .of_egress rfl
  · exact fresh_forwardPost _ _ _ _

theorem fresh_attempt (h : HostId) (o : Option (Fin Config.replyEntries)) (s : State) : FetchesFresh s (attempt h o s) := by
  unfold attempt
  dsimp only
  split
  · exact .of_egress rfl
  · split
    · exact fresh_carryOut h o _ (takeHead h (s.setMark h .clear))
    · exact .of_egress rfl

/-- Every FETCH that the offers of an event put into an egress queue is that of an entry FREE before them. -/
theorem fresh_offerFreed (before s : State) : FetchesFresh s (offerFreed before s) :=
  (rel_offerFreed (R := fun s t => TrafficMoves s t ∧ FetchesFresh s t)
    (fun s => ⟨TrafficMoves.refl s, .of_egress rfl⟩)
    (fun _ _ _ a b => ⟨a.1.trans b.1, FetchesFresh.trans a.1 a.2 b.2⟩)
    (fun h o s => ⟨moves_attempt h o s, fresh_attempt h o s⟩)
    (fun h s => ⟨moves_setEntryPosition s h, .of_egress rfl⟩)
    (fun g h s => ⟨moves_setEgressPosition s g h, .of_egress rfl⟩) before s).2

/-! ### What ending drains leave alone -/

section drainsEnd

variable {s t : State} (h : DrainsEnd s t)

include h

theorem DrainsEnd.ctl : t.ctl = s.ctl := by rw [h.rest]

theorem DrainsEnd.fwd : t.fwd = s.fwd := by rw [h.rest]

theorem DrainsEnd.events : t.events = s.events := by rw [h.rest]

theorem DrainsEnd.link : t.ports.link = s.ports.link := by rw [h.rest]

theorem DrainsEnd.held : t.ports.held = s.ports.held := by rw [h.rest]

theorem DrainsEnd.entry (i : Fin Config.replyEntries) : t.entry i = s.entry i := by rw [h.rest]; rfl

theorem DrainsEnd.egress (g : TargetId) : t.egress g = s.egress g := by rw [h.rest]; rfl

theorem DrainsEnd.noHostWaits (hn : NoHostWaits s) : NoHostWaits t := by
  intro k
  unfold State.mark
  rw [h.fwd]
  exact hn k

end drainsEnd

/-! ### One drain completes -/

/-- Nothing differs but one slot and the pool. -/
structure SlotOnly (i : Fin Config.slots) (s t : State) : Prop where
  others : ∀ k, k ≠ i → t.slot k = s.slot k
  rest : t = { s with dir := t.dir }

theorem SlotOnly.refl (i : Fin Config.slots) (s : State) : SlotOnly i s s := ⟨fun _ _ => rfl, rfl⟩

theorem slotOnly_setSlot (i : Fin Config.slots) (x : Slot) (s : State) : SlotOnly i s (s.setSlot i x) :=
  ⟨fun _ hne => State.setSlot_slot_ne s i x hne, rfl⟩

theorem SlotOnly.setPoolFree {i : Fin Config.slots} {s t : State} (h : SlotOnly i s t) (n : Nat) :
    SlotOnly i s (t.setPoolFree n) := by
  obtain ⟨others, rest⟩ := h
  refine ⟨others, ?_⟩
  rw [rest]
  rfl

theorem slotOnly_freeSlot (i : Fin Config.slots) (s : State) : SlotOnly i s (freeSlot i s) := by
  unfold freeSlot
  split
  · exact (slotOnly_setSlot i _ s).setPoolFree _
  · exact .refl i s

theorem slotOnly_applyChange (i : Fin Config.slots) (c : PendingChange) (w : Window) (s : State) :
    SlotOnly i s (applyChange i c w s) := by
  cases c with
  | modify f => exact slotOnly_setSlot i _ s
  | attach r => exact slotOnly_setSlot i _ s
  | detach k => exact (slotOnly_setSlot i _ s).setPoolFree _

theorem slotOnly_carryOutPurpose (i : Fin Config.slots) (s : State) : SlotOnly i s (carryOutPurpose i s) := by
  unfold carryOutPurpose
  split
  · split
    · exact slotOnly_freeSlot i s
    · exact slotOnly_applyChange i _ _ s
    · exact .refl i s
  · exact .refl i s

theorem carryOutPurpose_eng (i : Fin Config.slots) (s : State) : (carryOutPurpose i s).eng = s.eng := by
  rw [(slotOnly_carryOutPurpose i s).rest]

theorem carryOutPurpose_ports (i : Fin Config.slots) (s : State) : (carryOutPurpose i s).ports = s.ports := by
  rw [(slotOnly_carryOutPurpose i s).rest]

/-- The pending change is applied and the window is LIVE (R123). -/
theorem carryOutPurpose_change {i : Fin Config.slots} {s : State} {w : Window} {c : PendingChange}
    (hw : (s.slot i).window = some w) (hc : w.state = .drainChange c) :
    (carryOutPurpose i s).slot i = { s.slot i with window := some { changed c w with state := .live } } := by
  have live : changed c { w with state := .live } = { changed c w with state := .live } := by cases c <;> rfl
  unfold carryOutPurpose
  simp only [hw, hc]
  rw [applyChange_slot, live]

/-- The slot is FREE and its generation has advanced (R124). -/
theorem carryOutPurpose_retire {i : Fin Config.slots} {s : State} {w : Window} (hw : (s.slot i).window = some w)
    (hr : w.state = .drainRetire) :
    (carryOutPurpose i s).slot i = { s.slot i with generation := (s.slot i).generation + 1, window := none } := by
  unfold carryOutPurpose freeSlot
  simp only [hw, hr]
  exact State.setSlot_slot_self ..

@[simp] theorem closeOrder_dir (src : Source) (i : Fin Config.slots) (st : Status) (s : State) :
    (closeOrder src i st s).dir = s.dir := by
  unfold closeOrder
  split
  · split <;> rfl
  · rfl

@[simp] theorem closeOrder_drains (src : Source) (i : Fin Config.slots) (st : Status) (s : State) :
    (closeOrder src i st s).eng.drains = s.eng.drains := by
  unfold closeOrder
  split
  · split <;> rfl
  · rfl

/-- Where at most one member passes a test, a member that does stands behind members that do not. -/
theorem split_at_only {α : Type} {p : α → Bool} {l : List α} {x : α} (once : l.countP p ≤ 1) (hx : x ∈ l) (hp : p x = true) :
    ∃ older newer, l = older ++ x :: newer ∧ ∀ y ∈ older, p y = false := by
  obtain ⟨older, newer, rfl⟩ := List.append_of_mem hx
  refine ⟨older, newer, rfl, fun y hy => ?_⟩
  rw [List.countP_append, List.countP_cons_of_pos hp] at once
  have none : older.countP p = 0 := by omega
  simpa using List.countP_eq_zero.1 none y hy

section closeOrder

variable {s : State} {src : Source} {i : Fin Config.slots} {e : OrderEntry} (once : (s.orders src).countP (isTakenFor i) ≤ 1)
  (he : e ∈ s.orders src) (ht : e.state = .taken i) (st : Status)

include once he ht

theorem find_isTakenFor : (s.orders src).find? (isTakenFor i) = some e := by
  have hp : isTakenFor i e = true := by simp [isTakenFor, ht]
  obtain ⟨older, newer, hl, ho⟩ := split_at_only once he hp
  exact List.find?_eq_some_iff_append.2 ⟨hp, older, newer, hl, fun y hy => by simp [ho y hy]⟩

/-- The one TAKEN entry of a drain is answered and its reply queued, unless it is silent (R79, R122). -/
theorem closeOrder_answers (hs : e.silent = false) :
    (closeOrder src i st s).returns src = s.returns src ++ [.orderReply e.sequence e.code st []] ∧
      { e with state := .answered } ∈ (closeOrder src i st s).orders src := by
  have hp : isTakenFor i e = true := by simp [isTakenFor, ht]
  obtain ⟨older, newer, hl, ho⟩ := split_at_only once he hp
  unfold closeOrder pushReturn
  rw [find_isTakenFor once he ht]
  dsimp only
  rw [if_neg (by simp [hs])]
  refine ⟨by rw [State.setReturns_returns_self, State.setOrders_returns], ?_⟩
  rw [State.setReturns_orders, State.setOrders_orders_self, hl, updateFirst_append _ _ _ _ _ ho hp]
  exact List.mem_append_right _ (List.mem_cons_self ..)

/-- The one TAKEN entry of a drain is removed if it is silent (R76, R122). -/
theorem closeOrder_removes (hs : e.silent = true) : (closeOrder src i st s).orders src = (s.orders src).erase e := by
  have hp : isTakenFor i e = true := by simp [isTakenFor, ht]
  obtain ⟨older, newer, hl, ho⟩ := split_at_only once he hp
  have fresh : e ∉ older := fun hm => by simp [ho e hm] at hp
  unfold closeOrder
  rw [find_isTakenFor once he ht]
  simp only [hs, if_true]
  rw [State.setOrders_orders_self, hl, List.erase_append_right _ fresh, List.erase_cons_head,
    List.eraseP_append_right _ (fun y hy => by simp [ho y hy]), List.eraseP_cons_of_pos hp]

end closeOrder

/-- The jobs of a list whose windows' counts are zero complete, in its order. -/
def completeListed (l : List DrainJob) (s : State) : State :=
  l.foldl (fun s' j => if (s'.slot j.handle.slot).count = 0 then completeJob j s' else s') s

theorem completeDrains_eq (s : State) : completeDrains s = completeListed s.eng.drains s := rfl

theorem completeListed_busy (l : List DrainJob) (s : State) (h : ∀ j ∈ l, (s.slot j.handle.slot).count ≠ 0) :
    completeListed l s = s := by
  induction l with
  | nil => rfl
  | cons j l ih =>
    unfold completeListed
    rw [List.foldl_cons, if_neg (h j (List.mem_cons_self ..))]
    exact ih fun k hk => h k (List.mem_cons_of_mem _ hk)

theorem completeListed_append (l l' : List DrainJob) (s : State) :
    completeListed (l ++ l') s = completeListed l' (completeListed l s) := List.foldl_append ..

/-- Where one job's window alone is without traffic, its drain completes and no other. -/
theorem completeDrains_only {s : State} {j : DrainJob} (hj : j ∈ s.eng.drains)
    (distinct : (s.eng.drains.map fun k => k.handle.slot).Nodup) (zero : (s.slot j.handle.slot).count = 0)
    (busy : ∀ k ∈ s.eng.drains, k.handle.slot ≠ j.handle.slot → (s.slot k.handle.slot).count ≠ 0) :
    completeDrains s = completeJob j s := by
  rw [completeDrains_eq]
  obtain ⟨older, newer, hl⟩ := List.append_of_mem hj
  rw [hl] at distinct busy ⊢
  have apart : ∀ k, k ∈ older ∨ k ∈ newer → k.handle.slot ≠ j.handle.slot := by
    rw [List.map_append, List.map_cons, List.nodup_append] at distinct
    obtain ⟨-, tail, cross⟩ := distinct
    rintro k (hk | hk) e
    · exact cross _ (List.mem_map_of_mem hk) _ (List.mem_cons_self ..) e
    · exact (List.nodup_cons.1 tail).1 (e ▸ List.mem_map_of_mem hk)
  have others : ∀ k, k ∈ older ∨ k ∈ newer → (s.slot k.handle.slot).count ≠ 0 := fun k hk =>
    busy k (List.mem_append.2 (hk.imp_right (List.mem_cons_of_mem _))) (apart k hk)
  have here : completeListed (j :: newer) s = completeListed newer (completeJob j s) := by
    unfold completeListed
    rw [List.foldl_cons, if_pos zero]
  rw [completeListed_append, completeListed_busy older s fun k hk => others k (.inl hk), here]
  refine completeListed_busy newer _ fun k hk => ?_
  rw [(drainsEnd_completeJob j s).counts]
  exact others k (.inr hk)

/-- A drain that has completed by one state has completed by a later one that keeps the windows and the Directory Engine. -/
theorem DrainCompletes.later {j : DrainJob} {w : Window} {e : OrderEntry} {ahead : List ReturnPacket} {s c t : State}
    (h : DrainCompletes j w e ahead s c) (hw : WindowsKept c t) (he : t.eng = c.eng)
    (hr : c.returns j.source <+: t.returns j.source) : DrainCompletes j w e ahead s t := by
  have ho : t.orders j.source = c.orders j.source := by unfold State.orders; rw [he]
  refine ⟨fun x hx => ?_, fun hx => ?_, he ▸ h.drains, fun hs => ?_, fun hs => ho ▸ h.removed hs, fun k hk => ?_⟩
  · rw [(hw _).1, (hw _).2]
    exact h.change x hx
  · rw [(hw _).1, (hw _).2]
    exact h.retire hx
  · obtain ⟨⟨between, hp, hn⟩, hm⟩ := h.answered hs
    exact ⟨⟨between, hp.trans hr, hn⟩, ho ▸ hm⟩
  · exact (hw k).1.trans (h.others k hk)

/-- The completion of a job, in a state with the drain list, order queues and windows of the one the drain was followed in. -/
theorem drainCompletes_completeJob {r : Route} {j : DrainJob} {w : Window} {e : OrderEntry} {s u : State}
    (h : LastOf r j w e s) (heng : u.eng = s.eng) (hwin : WindowsKept s u) :
    DrainCompletes j w e (u.returns j.source) s (completeJob j u) := by
  have hw : (u.slot j.handle.slot).window = some w := (hwin _).1.trans h.window
  have slots : ∀ k, (completeJob j u).slot k = (carryOutPurpose j.handle.slot u).slot k := fun k => by
    unfold completeJob State.slot
    rw [closeOrder_dir]
    rfl
  have orders : ∀ src, (removeJob j.handle.slot (carryOutPurpose j.handle.slot u)).orders src = s.orders src := fun src => by
    unfold removeJob
    rw [State.setDrains_orders]
    unfold State.orders
    rw [carryOutPurpose_eng, heng]
  have returns : ∀ src, (removeJob j.handle.slot (carryOutPurpose j.handle.slot u)).returns src = u.returns src := fun src => by
    unfold removeJob
    rw [State.setDrains_returns]
    unfold State.returns
    rw [carryOutPurpose_ports]
  have once := orders j.source ▸ h.taken.once j.source j.handle.slot
  have mem := orders j.source ▸ h.order
  refine ⟨fun c hc => ?_, fun hr => ?_, ?_, fun hs => ?_, fun hs => ?_, fun k hk => ?_⟩
  · rw [slots, carryOutPurpose_change hw hc]
    exact ⟨rfl, (hwin _).2⟩
  · rw [slots, carryOutPurpose_retire hw hr]
    exact ⟨rfl, congrArg (· + 1) (hwin _).2⟩
  · unfold completeJob removeJob
    rw [closeOrder_drains, State.setDrains_eng_drains, carryOutPurpose_eng, heng]
  · obtain ⟨hret, hans⟩ := closeOrder_answers once mem h.held .done hs
    refine ⟨⟨[], ?_, fun _ => rfl⟩, hans⟩
    unfold completeJob
    rw [hret, returns, List.append_nil]
  · unfold completeJob
    rw [closeOrder_removes once mem h.held .done hs, orders]
  · rw [slots, (slotOnly_carryOutPurpose _ u).others k hk]
    exact (hwin k).1

/-! ### A count that has fallen -/

section countChanges

variable {h : Handle} {f : Nat → Nat} {s u : State} (hc : CountChanges (.window h) f s u)

include hc

theorem CountChanges.slot_eq (k : Fin Config.slots) :
    u.slot k = (s.setSlot h.slot { s.slot h.slot with count := f (s.slot h.slot).count }).slot k := by
  unfold State.slot
  rw [show u.dir = _ from hc]
  rfl

theorem CountChanges.count_self : (u.slot h.slot).count = f (s.slot h.slot).count := by
  rw [hc.slot_eq, State.setSlot_slot_self]

theorem CountChanges.slot_ne {k : Fin Config.slots} (hne : k ≠ h.slot) : u.slot k = s.slot k := by
  rw [hc.slot_eq, State.setSlot_slot_ne _ _ _ hne]

theorem CountChanges.windowsKept : WindowsKept s u := by
  intro k
  by_cases e : k = h.slot
  · subst e
    rw [hc.slot_eq, State.setSlot_slot_self]
    exact ⟨rfl, rfl⟩
  · rw [hc.slot_ne e]
    exact ⟨rfl, rfl⟩

end countChanges

theorem isDraining_of_drainPurpose {x : WindowState} {p : Purpose} (h : drainPurpose x = some p) : isDraining x = true := by
  cases x with
  | staged => cases h
  | live => cases h
  | drainRetire => rfl
  | drainChange c => rfl

/-- A drain job's window has traffic in flight, in a state that keeps the drain invariants (R23, R118, R122). -/
theorem job_hasTraffic {s : State} (follows : DrainsFollowWindows s) (traffic : DrainingHasTraffic s) {k : DrainJob}
    (hk : k ∈ s.eng.drains) : (s.slot k.handle.slot).count ≠ 0 := by
  obtain ⟨w, hw, -, hp⟩ := follows.follows k hk
  exact traffic _ w hw (isDraining_of_drainPurpose hp)

/-- The event that takes the last item of a DRAINING window away completes its drain at its tail (R122, R128). -/
theorem LastOf.completes {r : Route} {j : DrainJob} {w : Window} {e : OrderEntry} {s u : State} (h : LastOf r j w e s)
    (hc : CountChanges r (· - 1) s u) (heng : u.eng = s.eng) (before before' : State) (prompt : Option Port) :
    DrainCompletes j w e (u.returns j.source) s (notify before prompt (settle before' u)) := by
  obtain ⟨generation, rfl⟩ := h.route
  have zero : (u.slot j.handle.slot).count = 0 := by
    have fallen := hc.count_self
    rw [h.count] at fallen
    exact fallen
  have busy : ∀ k ∈ u.eng.drains, k.handle.slot ≠ j.handle.slot → (u.slot k.handle.slot).count ≠ 0 := by
    intro k hk hne
    rw [hc.slot_ne hne]
    exact job_hasTraffic h.follows h.traffic (heng ▸ hk)
  have one : completeDrains u = completeJob j u :=
    completeDrains_only (heng ▸ h.job) (heng ▸ h.follows.distinct) zero busy
  have moves := moves_offerFreed before' (completeJob j u)
  have done := drainCompletes_completeJob h heng hc.windowsKept
  unfold settle
  rw [one]
  refine done.later (fun k => ?_) ?_ ((moves.returns _).trans (notify_returns ..))
  · rw [notify_slot]
    exact moves.windows k
  · rw [notify_eng]
    exact moves.eng

/-! ### An entry that has left WAITING -/

/-- What R61 and R68 say of an entry holds of the operation, whatever the event has set of the flags before it. -/
theorem entryLeft_leaveWaiting {i : Fin Config.replyEntries} {w : Waiting} {s : State} (hw : (s.entry i).state = .waiting w)
    (st : Status) (d : List Byte) (ev : Events) : EntryLeft i w st d s (leaveWaiting i st d (s.setEvents ev)) := by
  have hw' : ((s.setEvents ev).entry i).state = .waiting w := hw
  rw [leaveWaiting_waiting hw']
  obtain ⟨host, tag, session, orphan, length, route, target, timer⟩ := w
  cases orphan <;> cases route <;> exact ⟨rfl, rfl, rfl, rfl, rfl⟩

@[simp] theorem leaveWaiting_events (i : Fin Config.replyEntries) (st : Status) (d : List Byte) (s : State) :
    (leaveWaiting i st d s).events = s.events := by
  unfold leaveWaiting
  split
  · next w _ =>
    have count : ∀ r (u : State), (lowerCount r u).events = u.events := fun r u => by cases r <;> rfl
    dsimp only
    split <;> exact count _ _
  · rfl

section entryLeft

variable {i : Fin Config.replyEntries} {w : Waiting} {st : Status} {d : List Byte} {s u : State}
  (h : EntryLeft i w st d s u)

include h

theorem EntryLeft.ctl : u.ctl = s.ctl := by rw [h.rest]

theorem EntryLeft.fwd : u.fwd = s.fwd := by rw [h.rest]

theorem EntryLeft.eng : u.eng = s.eng := by rw [h.rest]

theorem EntryLeft.link : u.ports.link = s.ports.link := by rw [h.rest]

theorem EntryLeft.held : u.ports.held = s.ports.held := by rw [h.rest]

theorem EntryLeft.noHostWaits (hn : NoHostWaits s) : NoHostWaits u := by
  intro k
  unfold State.mark
  rw [h.fwd]
  exact hn k

theorem EntryLeft.entry_self : u.entry i =
    if w.orphan then ⟨(s.entry i).epoch + 1, .free⟩
    else ⟨(s.entry i).epoch, .answered ⟨w.host, w.tag, w.session, some (w.route, w.target), st, d⟩⟩ := by
  unfold State.entry
  rw [h.table]
  exact Vector.getElem_set_self i.isLt

theorem EntryLeft.entry_ne {k : Fin Config.replyEntries} (hne : k ≠ i) : u.entry k = s.entry k := by
  unfold State.entry
  rw [h.table]
  exact Vector.getElem_set_ne i.isLt k.isLt fun e => hne (Fin.ext e.symm)

theorem EntryLeft.egress_target : u.egress w.target = (s.egress w.target).filter fun pkt => !isFetchOf i pkt := by
  unfold State.egress
  rw [h.egress]
  exact PerTarget.get_set_self ..

theorem EntryLeft.returns_host (ho : w.orphan = false) :
    u.returns (.host w.host) = s.returns (.host w.host) ++ [.reply i w.tag st d] := by
  unfold State.returns
  rw [h.returns, if_neg (by simp [ho])]
  exact PerSource.get_set_self ..

/-- Neither the entry's own FETCH nor one that an offer adds for the freed entry carries the epoch it had (R55, R56). -/
theorem EntryLeft.fetchGone {t : State} (fresh : FetchesFresh u t) (a : Addr) (n : Nat) :
    .fetch i (s.entry i).epoch a n ∉ t.egress w.target := by
  intro hm
  rcases fresh _ i _ a n hm with old | ⟨hfree, hep⟩
  · rw [h.egress_target] at old
    simp [isFetchOf] at old
  · rw [h.entry_self] at hfree hep
    cases ho : w.orphan with
    | false => simp [ho] at hfree
    | true =>
      rw [if_pos ho] at hep
      dsimp only at hep
      bv_omega

/-- An entry that has left WAITING, seen at the end of the event: drains have completed, what was freed has been offered, and
notices have followed. -/
theorem EntryLeft.leftWaiting (before : State) (prompt : Option Port) :
    LeftWaiting i w st d s (notify before prompt (settle s u)) := by
  have ends := drainsEnd_completeDrains u
  have moves : TrafficMoves (completeDrains u) (settle s u) := moves_offerFreed s _
  have grows : ∀ src, u.returns src <+: (notify before prompt (settle s u)).returns src := fun src =>
    ((ends.returns src).trans (moves.returns src)).trans (notify_returns ..)
  have kept : ∀ k, (u.entry k).state ≠ .free → (notify before prompt (settle s u)).entry k = u.entry k := fun k hk => by
    rw [notify_entry, moves.entries k (by rwa [ends.entry]), ends.entry]
  refine ⟨fun ho => ?_, fun ho => ?_, fun ho => ⟨?_, fun hn => ?_⟩, fun a n => ?_, fun k hk hs => ?_, fun hn hd => ?_⟩
  · have self := h.entry_self
    rw [ho] at self
    rw [kept i (by rw [self]; simp), self]
    rfl
  · rw [← h.returns_host ho]
    exact grows _
  · rw [notify_entry, moves.epochs, ends.entry, h.entry_self, ho]
    rfl
  · unfold settle
    rw [offerFreed_idle _ _ (ends.noHostWaits (h.noHostWaits hn)), notify_entry, ends.entry, h.entry_self, ho]
    rfl
  · rw [notify_egress]
    refine h.fetchGone (fun g k ep x m hm => ?_) a n
    have fresh := fresh_offerFreed s (completeDrains u) g k ep x m hm
    rwa [ends.egress, ends.entry] at fresh
  · rw [kept k (by rwa [h.entry_ne hk]), h.entry_ne hk]
  · have idle : settle s u = u := settle_idle s u (by unfold NoDrains; rw [h.eng]; exact hd) (h.noHostWaits hn)
    have count := h.count
    unfold CountChanges at *
    rw [idle, notify_dir]
    exact count

/-- With no host waiting, the tail of an event sets no flag and clears none. -/
theorem EntryLeft.settle_events (hn : NoHostWaits s) : (settle s u).events = u.events := by
  have ends := drainsEnd_completeDrains u
  unfold settle
  rw [offerFreed_idle _ _ (ends.noHostWaits (h.noHostWaits hn)), ends.events]

/-- With no drain, the Directory Engine is as it was at the end of the event. -/
theorem EntryLeft.settle_eng (hd : NoDrains s) : (settle s u).eng = s.eng := by
  have none : NoDrains u := by unfold NoDrains; rw [h.eng]; exact hd
  unfold settle
  rw [(moves_offerFreed s _).eng, completeDrains_idle u none, h.eng]

end entryLeft

/-- The tail of an event moves no link and no held credit, and leaves the phase. -/
theorem settle_keeps (before s : State) : (settle before s).ports.link = s.ports.link ∧
    (settle before s).ports.held = s.ports.held ∧ (settle before s).ctl = s.ctl := by
  have ends := drainsEnd_completeDrains s
  have moves : TrafficMoves (completeDrains s) (settle before s) := moves_offerFreed before _
  exact ⟨moves.link.trans ends.link, moves.held.trans ends.held, moves.ctl.trans ends.ctl⟩

/-- A flag that shows its port still shows it after the tail and the end of the event. -/
theorem shows_settle {f : Flag} {p : Port} {s : State} (h : FlagShows f p s) (before before' : State) (prompt : Option Port) :
    FlagShows f p (notify before prompt (settle before' s)) := by
  have ends := drainsEnd_completeDrains s
  have drained : FlagShows f p (completeDrains s) := by
    unfold FlagShows
    rw [ends.events]
    exact h
  have settled : FlagShows f p (settle before' s) := (moves_offerFreed before' _).shows f p drained
  unfold FlagShows
  rw [notify_events]
  exact settled

end Sys2Proof.Machine
end

section
/-! SUPPORT. A REPLY at the Reply Table (R57 to R61): what its arrival comes to, matched or stray, and the two statements. -/

namespace Sys2Proof.Machine

/-! ### The arrival -/

/-- A whole REPLY of the right form on a target link that is UP comes to the Reply Table (R148, R169). -/
theorem exec_reply {s : State} {g : TargetId} {f : Frame} (hr : s.ctl.phase = .running) (hu : s.link (.target g) = .up)
    (hk : checkMatches kindReply f = true) (hlen : f.length.toNat ≤ 256) (hp : f.payload.length = f.length.toNat) :
    exec (.reply g f) s = .next (notify s none (matchArrival g f s)) := by
  have running : isRunning s = true := by simp [isRunning, hr]
  have up : isUp (.target g) s = true := by simp [isUp, hu]
  have form : formMatches kindReply f = true := by simp [formMatches, kindPost, kindFetch, kindOrder, kindReply, hlen, hp]
  have passes : passesTests (.target g) kindReply f = true := by simp [passesTests, hk, takesKind, form]
  show Host.Outcome.next (packetArrives (.target g) kindReply f s) = _
  unfold packetArrives
  rw [if_pos running, up, passes]
  rfl

/-- The entry that the Reply Table finds for a tag is the one that the tag names (R57). -/
theorem matchReply_eq_some_iff (s : State) (g : TargetId) (tag : BitVec 16) (i : Fin Config.replyEntries) (w : Waiting) :
    matchReply s g tag = some (i, w) ↔ TagMatches s g tag i w := by
  have index : tagIndex tag = some i ↔ (tag.extractLsb' 6 6).toNat = i.val := by
    unfold tagIndex
    dsimp only
    split
    · simp [Fin.ext_iff]
    · next hb => simp only [reduceCtorEq, false_iff]; omega
  unfold matchReply TagMatches
  constructor
  · intro h
    split at h
    · next k hk =>
      split at h
      · next v hv =>
        split at h
        · next hc =>
          cases h
          exact ⟨hv, index.1 hk, hc.1.symm, hc.2⟩
        · cases h
      · cases h
    · cases h
  · rintro ⟨hw, hi, he, ht⟩
    rw [index.2 hi]
    simp only [hw]
    rw [if_pos ⟨he.symm, ht⟩]

/-- A REPLY whose tag names no WAITING entry is discarded with STRAY_REPLY (R59). -/
theorem matchArrival_stray {s : State} {g : TargetId} {f : Frame} (h : ∀ i w, ¬TagMatches s g f.tag i w) :
    matchArrival g f s = setFlag .strayReply (.target g) s := by
  have none : matchReply s g f.tag = none := by
    rw [Option.eq_none_iff_forall_ne_some]
    exact fun x hx => h x.1 x.2 ((matchReply_eq_some_iff ..).1 hx)
  unfold matchArrival
  rw [none]

/-! ### The rows of R58 -/

/-- The REPLY answers its entry with DONE: its status is DONE and its data has the entry's length (R58). -/
abbrev GivesData (w : Waiting) (f : Frame) : Prop := f.status = 0 ∧ f.payload.length = w.length

/-- The REPLY is one that its target may send for the entry: it gives the data, or is TARGET_ERROR without data (R58). -/
abbrev RightlyFormed (w : Waiting) (f : Frame) : Prop := GivesData w f ∨ f.status = 1 ∧ f.payload = []

theorem replyFits_iff (w : Waiting) (f : Frame) : replyFits w f = true ↔ RightlyFormed w f := by
  simp [replyFits, statusCode, RightlyFormed, GivesData]

theorem judgeReply_data {w : Waiting} {f : Frame} (h : GivesData w f) : judgeReply w f = (.done, f.payload) := if_pos h

theorem judgeReply_error {w : Waiting} {f : Frame} (h : ¬GivesData w f) : judgeReply w f = (.targetError, []) := if_neg h

/-- The flags as the match of a REPLY leaves them (R58). -/
def replyEvents (g : TargetId) (w : Waiting) (f : Frame) (s : State) : Events :=
  if replyFits w f then s.events else raiseFlag .protocol (portMask (.target g)) s.events

/-- The part just after a matched REPLY has ended its entry's wait, before drains complete and freed resources are offered. -/
def replyMatched (g : TargetId) (i : Fin Config.replyEntries) (w : Waiting) (f : Frame) (s : State) : State :=
  leaveWaiting i (judgeReply w f).1 (judgeReply w f).2 (s.setEvents (replyEvents g w f s))

/-- A REPLY whose tag names a WAITING entry ends its wait (R58). -/
theorem matchArrival_matched {s : State} {g : TargetId} {f : Frame} {i : Fin Config.replyEntries} {w : Waiting}
    (h : TagMatches s g f.tag i w) : matchArrival g f s = settle s (replyMatched g i w f s) := by
  unfold matchArrival replyMatched replyEvents
  rw [(matchReply_eq_some_iff ..).2 h]
  dsimp only
  split <;> rfl

theorem replyMatched_entryLeft {s : State} {i : Fin Config.replyEntries} {w : Waiting} (hw : (s.entry i).state = .waiting w)
    (g : TargetId) (f : Frame) : EntryLeft i w (judgeReply w f).1 (judgeReply w f).2 s (replyMatched g i w f s) :=
  entryLeft_leaveWaiting hw _ _ _

theorem replyMatched_events_fit {w : Waiting} {f : Frame} (h : RightlyFormed w f) (g : TargetId) (i : Fin Config.replyEntries)
    (s : State) : (replyMatched g i w f s).events = s.events := by
  unfold replyMatched replyEvents
  rw [leaveWaiting_events, if_pos ((replyFits_iff w f).2 h)]
  rfl

theorem replyMatched_flagRaised {w : Waiting} {f : Frame} (h : ¬RightlyFormed w f) (g : TargetId)
    (i : Fin Config.replyEntries) (s : State) :
    FlagRaised .protocol (portMask (.target g)) s (replyMatched g i w f s) := by
  refine flagRaised_raise _ _ _ _ ?_
  unfold replyMatched replyEvents
  rw [leaveWaiting_events, if_neg (mt (replyFits_iff w f).1 h)]
  rfl

/-! ### The statements -/

/-- Settles O34: the state after the entry has left WAITING is written out (`EntryLeft`), and the tail of the event is followed
from it, a completed drain through `LastOf.completes` and the offers through `handOut_settle`. -/
theorem replyIsMatched : Obligations.ReplyIsMatched := by
  intro s g f i w hr hu hk hlen hp hm
  have left := replyMatched_entryLeft hm.1 g f
  have ended := left.leftWaiting s none
  obtain ⟨hlink, hheld, hctl⟩ := settle_keeps s (replyMatched g i w f s)
  refine ⟨notify s none (settle s (replyMatched g i w f s)), ?_, fun hd => ?_, fun hd => ?_, fun hf hn => ?_, fun hf => ?_,
    ⟨replyMatched g i w f s, ?_, ?_, fun _ hn => handOut_settle s none _ hn,
      fun j win e hl => hl.completes left.count left.eng s s none⟩, fun hd => ?_, ?_, ?_, ?_⟩
  · rw [exec_reply hr hu hk hlen hp, matchArrival_matched hm]
  · rwa [judgeReply_data hd] at ended
  · rwa [judgeReply_error hd] at ended
  · have same : (settle s (replyMatched g i w f s)).events = s.events :=
      (left.settle_events hn).trans (replyMatched_events_fit hf g i s)
    rw [notify_same s _ same, same]
  · exact shows_settle (replyMatched_flagRaised hf g i s).shows s s none
  · split
    · next hd => rwa [judgeReply_data hd] at left
    · next hd => rwa [judgeReply_error hd] at left
  · split
    · next hf => exact replyMatched_events_fit hf g i s
    · next hf => exact replyMatched_flagRaised hf g i s
  · rw [notify_eng, left.settle_eng hd]
  · rw [notify_ports]
    exact hlink.trans left.link
  · rw [notify_ports]
    exact hheld.trans left.held
  · rw [notify_ctl]
    exact hctl.trans left.ctl

/-- Settles O35: without an entry that the tag names, the arrival sets one flag and the event ends. -/
theorem strayReplyDiscarded : Obligations.StrayReplyDiscarded := by
  intro s g f hr hu hk hlen hp hm
  refine ⟨_, exec_reply hr hu hk hlen hp, ?_⟩
  rw [matchArrival_stray hm]
  exact flagOnly_setFlag .strayReply (.target g) s

end Sys2Proof.Machine
end

section
/-! SUPPORT. What keeps the freeze flag and locked windows (R8, R143): the operations that leave the directory alone, those that
write one slot, the drains, and the decisions of window orders. -/

namespace Sys2Proof.Machine

/-! ### The relation that events compose -/

/-- What R8 and R143 ask of a later state. -/
structure LocksStand (s t : State) : Prop where
  lockedLive : LockedLive t
  frozen : s.eng.frozen = true → t.eng.frozen = true
  windows : ∀ i w, (s.slot i).window = some w → w.locked = true →
    (t.slot i).window = some w ∧ (t.slot i).generation = (s.slot i).generation

/-- An operation keeps the freeze flag and every locked window, on a part whose locked windows are LIVE. -/
def LocksKept (s t : State) : Prop := LockedLive s → LocksStand s t

theorem LocksKept.refl (s : State) : LocksKept s s := fun hs => ⟨hs, id, fun _ _ hw _ => ⟨hw, rfl⟩⟩

theorem LocksKept.trans {s t u : State} (a : LocksKept s t) (b : LocksKept t u) : LocksKept s u := by
  intro hs
  have st := a hs
  have tu := b st.lockedLive
  refine ⟨tu.lockedLive, fun hf => tu.frozen (st.frozen hf), fun i w hw hl => ?_⟩
  obtain ⟨hwt, hgt⟩ := st.windows i w hw hl
  obtain ⟨hwu, hgu⟩ := tu.windows i w hwt hl
  exact ⟨hwu, hgu.trans hgt⟩

/-- A fold keeps the locks if each of its steps does. -/
theorem LocksKept.foldl {α : Type} (f : State → α → State) (step : ∀ s a, LocksKept s (f s a)) (l : List α) (s : State) :
    LocksKept s (l.foldl f s) :=
  foldl_rel LocksKept.refl (fun _ _ _ => LocksKept.trans) f step l s

theorem WindowsKept.locksKept {s t : State} (h : WindowsKept s t) (hf : t.eng.frozen = s.eng.frozen) : LocksKept s t := by
  intro hs
  refine ⟨fun i w hw => hs i w ((h i).1 ▸ hw), fun x => hf.trans x, fun i w hw _ => ?_⟩
  rw [(h i).1, (h i).2]
  exact ⟨hw, rfl⟩

/-- Most of the part has no share in the locks: what leaves the directory and the freeze flag alone keeps them. -/
theorem LocksKept.same {s t : State} (hd : t.dir = s.dir) (hf : t.eng.frozen = s.eng.frozen) : LocksKept s t :=
  WindowsKept.locksKept (fun i => by unfold State.slot; rw [hd]; exact ⟨rfl, rfl⟩) hf

theorem locksKept_setPoolFree (n : Nat) (s : State) : LocksKept s (s.setPoolFree n) :=
  WindowsKept.locksKept (fun _ => ⟨rfl, rfl⟩) rfl

theorem TrafficMoves.locksKept {s t : State} (h : TrafficMoves s t) : LocksKept s t := h.windows.locksKept (by rw [h.eng])

theorem TrafficEnds.locksKept {s t : State} (h : TrafficEnds s t) : LocksKept s t := h.windows.locksKept (by rw [h.eng])

/-! ### One slot is written -/

/-- The slot is FREE or its window is not locked. -/
def SlotUnlocked (s : State) (i : Fin Config.slots) : Prop := ∀ w, (s.slot i).window = some w → w.locked = false

theorem SlotUnlocked.of_window {s : State} {i : Fin Config.slots} {w : Window} (hw : (s.slot i).window = some w)
    (hl : w.locked = false) : SlotUnlocked s i := by
  intro v hv
  cases hw.symm.trans hv
  exact hl

/-- A window that is not LIVE is not locked (R8). -/
theorem LockedLive.unlocked {s : State} (h : LockedLive s) {i : Fin Config.slots} {w : Window}
    (hw : (s.slot i).window = some w) (hn : w.state ≠ .live) : w.locked = false := by
  by_contra hl
  exact hn (h i w hw (by simpa using hl))

/-- A slot may be written where it holds no locked window, if a locked window written there is LIVE. -/
theorem SlotOnly.locksKept {i : Fin Config.slots} {s t : State} (only : SlotOnly i s t) (hu : SlotUnlocked s i)
    (hlive : ∀ v, (t.slot i).window = some v → v.locked = true → v.state = .live) : LocksKept s t := by
  intro hs
  refine ⟨fun k v hv hl => ?_, fun hf => by rw [only.rest]; exact hf, fun k w hw hl => ?_⟩
  · by_cases e : k = i
    · subst e
      exact hlive v hv hl
    · exact hs k v (only.others k e ▸ hv) hl
  · have ne : k ≠ i := by
      rintro rfl
      cases (hu w hw).symm.trans hl
    rw [only.others k ne]
    exact ⟨hw, rfl⟩

/-- A slot that holds no locked window, before and after. -/
theorem SlotOnly.locksKept_unlocked {i : Fin Config.slots} {s t : State} (only : SlotOnly i s t) (hu : SlotUnlocked s i)
    (hv : SlotUnlocked t i) : LocksKept s t :=
  only.locksKept hu fun v hw hl => by cases (hv v hw).symm.trans hl

theorem locksKept_setSlot {i : Fin Config.slots} {x : Slot} {s : State} (hu : SlotUnlocked s i)
    (hx : ∀ v, x.window = some v → v.locked = false) : LocksKept s (s.setSlot i x) :=
  (slotOnly_setSlot i x s).locksKept_unlocked hu fun v hv => hx v (by rwa [State.setSlot_slot_self] at hv)

theorem locksKept_setWindow {i : Fin Config.slots} {w : Window} {s : State} (hu : SlotUnlocked s i) (hl : w.locked = false) :
    LocksKept s (setWindow i w s) :=
  locksKept_setSlot hu fun v hv => by cases hv; exact hl

theorem freeSlot_window (i : Fin Config.slots) (s : State) : ((freeSlot i s).slot i).window = none := by
  unfold freeSlot
  split
  · rw [State.setPoolFree_slot, State.setSlot_slot_self]
  · next h => exact h

theorem locksKept_freeSlot {i : Fin Config.slots} {s : State} (hu : SlotUnlocked s i) : LocksKept s (freeSlot i s) :=
  (slotOnly_freeSlot i s).locksKept_unlocked hu fun v hv => by rw [freeSlot_window] at hv; cases hv

/-- No change moves a locked mark. -/
theorem changed_locked (c : PendingChange) (w : Window) : (changed c w).locked = w.locked := by cases c <;> rfl

theorem locksKept_applyChange {i : Fin Config.slots} (c : PendingChange) {w : Window} {s : State} (hu : SlotUnlocked s i)
    (hl : w.locked = false) : LocksKept s (applyChange i c w s) := by
  refine (slotOnly_applyChange i c w s).locksKept_unlocked hu fun v hv => ?_
  rw [applyChange_slot] at hv
  cases hv
  rw [changed_locked, hl]

/-! ### Drains -/

/-- The end of a drain touches only a window that is DRAINING, and so not locked (R8, R123, R124). -/
theorem locksKept_carryOutPurpose (i : Fin Config.slots) (s : State) : LocksKept s (carryOutPurpose i s) := by
  intro hs
  unfold carryOutPurpose
  split
  · next w hw =>
    split
    · next hd =>
      exact locksKept_freeSlot (.of_window hw (hs.unlocked hw (by simp [hd]))) hs
    · next c hd =>
      have hl := hs.unlocked hw (by simp [hd])
      exact locksKept_applyChange c (.of_window hw hl) hl hs
    · exact LocksKept.refl s hs
  · exact LocksKept.refl s hs

theorem closeOrder_frozen (src : Source) (i : Fin Config.slots) (st : Status) (s : State) :
    (closeOrder src i st s).eng.frozen = s.eng.frozen := by rw [(drainsEnd_closeOrder src i st s).rest]

theorem locksKept_closeOrder (src : Source) (i : Fin Config.slots) (st : Status) (s : State) :
    LocksKept s (closeOrder src i st s) := .same (closeOrder_dir ..) (closeOrder_frozen ..)

theorem locksKept_removeJob (i : Fin Config.slots) (s : State) : LocksKept s (removeJob i s) := .same rfl rfl

theorem locksKept_completeDrains (s : State) : LocksKept s (completeDrains s) := by
  refine LocksKept.foldl _ (fun u j => ?_) _ s
  split
  · exact ((locksKept_carryOutPurpose _ u).trans (locksKept_removeJob _ _)).trans
      (locksKept_closeOrder _ _ _ _)
  · exact .refl u

theorem locksKept_offerFreed (before s : State) : LocksKept s (offerFreed before s) := (moves_offerFreed before s).locksKept

/-- The tail of an event keeps the locks (R46, R47, R128). -/
theorem locksKept_settle (before s : State) : LocksKept s (settle before s) :=
  (locksKept_completeDrains s).trans (locksKept_offerFreed before _)

/-- The end of an event keeps the locks (R179). -/
theorem LocksKept.notify {s t : State} (h : LocksKept s t) (before : State) (prompt : Option Port) :
    LocksKept s (notify before prompt t) :=
  h.trans (.same (notify_dir ..) (by rw [notify_eng]))

theorem locksKept_startDrain {i : Fin Config.slots} {w : Window} {s : State} (hu : SlotUnlocked s i) (hl : w.locked = false)
    (state : WindowState) (purpose : Purpose) (mode : Mode) (src : Source) (e : OrderEntry) :
    LocksKept s (startDrain i w state purpose mode src e s) := by
  have jobs : ∀ js, LocksKept s (s.setDrains js) := fun _ => .same rfl rfl
  have window : ∀ js, LocksKept (s.setDrains js) (setWindow i { w with state := state } (s.setDrains js)) :=
    fun _ => locksKept_setWindow hu hl
  exact ((jobs _).trans (window _)).trans (.same rfl rfl)

/-- An abandoned drain makes LIVE again a window that was DRAINING, and so not locked (R8, R125). -/
theorem locksKept_abandonDrain (j : DrainJob) (s : State) : LocksKept s (abandonDrain j s) := by
  intro hs
  have live : ∀ w, (s.slot j.handle.slot).window = some w → w.state ≠ .live →
      LocksKept s (setWindow j.handle.slot { w with state := .live } s) := fun w hw hn =>
    have hl := hs.unlocked hw hn
    locksKept_setWindow (.of_window hw hl) hl
  have close : ∀ u, LocksKept u
      (setPlainFlag .drainExpired (closeOrder j.source j.handle.slot .drainExpired (removeJob j.handle.slot u))) := fun u =>
    ((locksKept_removeJob _ u).trans (locksKept_closeOrder _ _ _ _)).trans (.same rfl rfl)
  refine LocksKept.trans ?_ (close _) hs
  split
  · next w hw =>
    split
    · next hd => exact live w hw (by simp [hd])
    · next hd => exact (live w hw (by simp [hd])).trans (locksKept_setPoolFree _ _)
    · next hd => exact live w hw (by simp [hd])
    · exact .refl s
  · exact .refl s

/-! ### Decisions of orders -/

theorem LocksKept.answerOrder {s u : State} {src : Source} {e : OrderEntry} {st : Status} {results : List Byte}
    (h : LocksKept s u) : LocksKept s (answerOrder src e st results u) :=
  h.trans (.same rfl rfl)

/-- A decision keeps the locks if the order does where it passes its checks: a refused one only has its reply. -/
theorem locksKept_decideOrder {takes : Byte → Bool} {check : Source → OrderEntry → State → Option Status}
    {carry : Source → OrderEntry → State → State} (hc : ∀ src e u, check src e u = none → LocksKept u (carry src e u))
    (s : State) : LocksKept s (decideOrder takes check carry s) := by
  have arbiter : ∀ src, LocksKept s (s.setArbiter src) := fun _ => .same rfl rfl
  unfold decideOrder
  split
  · split
    · next src e _ =>
      split
      · dsimp only
        split
        · exact (arbiter src).answerOrder
        · next hpass => exact (arbiter src).trans (hc src e _ hpass)
      · exact .refl s
    · exact .refl s
  · exact .refl s

theorem firstRefusal_cons_eq_none (x : Option Status) (l : List (Option Status)) :
    firstRefusal (x :: l) = none ↔ x = none ∧ firstRefusal l = none := by cases x <;> simp

theorem refuseIf_eq_none (b : Bool) (st : Status) : refuseIf b st = none ↔ b = false := by cases b <;> simp

/-- What a handle resolves to stands in its slot (R1). -/
theorem resolve_window {s : State} {b : List Byte} {i : Fin Config.slots} {w : Window} (h : resolve s b = .found i w) :
    (s.slot i).window = some w := by
  unfold resolve at h
  split at h
  · cases h
  · split at h
    · cases h
    · next hw =>
      split at h
      · cases h
        exact hw
      · cases h

/-- What an order that names a window has found when it passes its checks (R84 to R86). -/
theorem handleOrderChecks_passed {o : OrderName} {owned lockable : Bool}
    {operands resources : Fin Config.slots → Window → OrderEntry → State → Option Status} {src : Source} {e : OrderEntry}
    {s : State} (h : handleOrderChecks o owned lockable operands resources src e s = none) :
    ∃ i w, resolve s e.block = .found i w ∧ (lockable = true → w.locked = false) ∧ stateCheck o w = none := by
  unfold handleOrderChecks at h
  simp only [firstRefusal_cons_eq_none] at h
  obtain ⟨-, -, -, hwindow, -⟩ := h
  split at hwindow
  · next i w hr =>
    simp only [firstRefusal_cons_eq_none] at hwindow
    obtain ⟨-, hlock, hstate, -⟩ := hwindow
    refine ⟨i, w, hr, fun hl => ?_, hstate⟩
    rw [if_pos hl] at hlock
    exact (refuseIf_eq_none ..).1 hlock
  · cases hwindow

/-- The decision of an order that the lock check guards keeps the locks if it does so on a window that is not locked (R142). -/
theorem locksKept_lockableOrder {takes : Byte → Bool} {o : OrderName} {owned : Bool}
    {operands resources : Fin Config.slots → Window → OrderEntry → State → Option Status}
    {carry : Source → OrderEntry → State → State}
    (hc : ∀ src e u i w, resolve u e.block = .found i w → SlotUnlocked u i → w.locked = false → LocksKept u (carry src e u))
    (s : State) : LocksKept s (decideOrder takes (handleOrderChecks o owned true operands resources) carry s) := by
  refine locksKept_decideOrder (fun src e u hpass => ?_) s
  obtain ⟨i, w, hr, hlock, -⟩ := handleOrderChecks_passed hpass
  exact hc src e u i w hr (.of_window (resolve_window hr) (hlock rfl)) (hlock rfl)

/-! ### Window orders -/

/-- OPEN's window is new: it is not locked (R11, R89). -/
theorem openOperands_locked {b : List Byte} {owner : Source} {w : Window} (h : openOperands b owner = some w) :
    w.locked = false := by
  unfold openOperands at h
  simp only [Option.bind_eq_bind, Option.bind_eq_some_iff] at h
  obtain ⟨_, _, _, _, _, _, _, _, hw⟩ := h
  split at hw
  · cases hw
    rfl
  · cases hw

theorem lowestFreeSlot_window {s : State} {i : Fin Config.slots} (h : lowestFreeSlot s = some i) :
    (s.slot i).window = none := by simpa using List.find?_some h

theorem locksKept_carryOpen (src : Source) (e : OrderEntry) (s : State) : LocksKept s (carryOpen src e s) := by
  unfold carryOpen
  split
  · next w i hw hi =>
    refine LocksKept.answerOrder (locksKept_setSlot (fun v hv => ?_) fun v hv => ?_)
    · cases (lowestFreeSlot_window hi).symm.trans hv
    · cases hv
      exact openOperands_locked hw
  · exact .refl s

/-- ACTIVATE passes its state check on a STAGED window alone (R86). -/
theorem stateCheck_activate {w : Window} (h : stateCheck .activate w = none) : w.state ≠ .live := by
  intro hl
  simp [stateCheck, isDraining, hl] at h

/-- LOCK passes its state check on a LIVE window alone (R86). -/
theorem stateCheck_lock {w : Window} (h : stateCheck .lock w = none) : w.state = .live := by
  cases hw : w.state <;> simp [stateCheck, isDraining, hw] at h ⊢

theorem locksKept_carryActivate {src : Source} {e : OrderEntry} {s : State} {i : Fin Config.slots} {w : Window}
    (hr : resolve s e.block = .found i w) (hs : stateCheck .activate w = none) : LocksKept s (carryActivate src e s) := by
  intro h
  have hw := resolve_window hr
  have hl := h.unlocked hw (stateCheck_activate hs)
  have live : LocksKept s (setWindow i { w with state := .live } s) := locksKept_setWindow (.of_window hw hl) hl
  unfold carryActivate
  rw [hr]
  exact live.answerOrder h

/-- LOCK marks a LIVE window, or leaves one that is locked already as it is (R97). -/
theorem locksKept_carryLock {src : Source} {e : OrderEntry} {s : State} {i : Fin Config.slots} {w : Window}
    (hr : resolve s e.block = .found i w) (hs : stateCheck .lock w = none) : LocksKept s (carryLock src e s) := by
  have hw := resolve_window hr
  unfold carryLock
  rw [hr]
  refine LocksKept.answerOrder ?_
  cases hl : w.locked with
  | false =>
    refine (slotOnly_setSlot i _ s).locksKept (.of_window hw hl) fun v hv _ => ?_
    rw [State.setSlot_slot_self] at hv
    cases hv
    exact stateCheck_lock hs
  | true =>
    have same : setWindow i { w with locked := true } s = s := by
      rw [← hl]
      unfold setWindow
      rw [← hw]
      exact State.setSlot_same s i
    rw [same]
    exact .refl s

theorem locksKept_makeChange {i : Fin Config.slots} {w : Window} {s : State} (hu : SlotUnlocked s i) (hl : w.locked = false)
    (c : PendingChange) (m : Mode) (src : Source) (e : OrderEntry) : LocksKept s (makeChange i w c m src e s) := by
  unfold makeChange
  split
  · exact locksKept_startDrain hu hl _ _ _ _ _
  · exact (locksKept_applyChange c hu hl).answerOrder

section lockableOrders

variable {src : Source} {e : OrderEntry} {s : State} {i : Fin Config.slots} {w : Window}
  (hr : resolve s e.block = .found i w) (hu : SlotUnlocked s i) (hl : w.locked = false)

include hr hu hl

theorem locksKept_carryModify : LocksKept s (carryModify src e s) := by
  unfold carryModify
  rw [hr]
  split
  · next hf _ _ =>
    cases hf
    exact locksKept_makeChange hu hl _ _ _ _
  · exact .refl s

theorem locksKept_carryRetire : LocksKept s (carryRetire src e s) := by
  unfold carryRetire
  rw [hr]
  split
  · next hf _ =>
    cases hf
    split
    · exact locksKept_startDrain hu hl _ _ _ _ _
    · exact (locksKept_freeSlot hu).answerOrder
  · exact .refl s

theorem locksKept_carryAttach : LocksKept s (carryAttach src e s) := by
  unfold carryAttach
  rw [hr]
  dsimp only
  split
  · refine (locksKept_setPoolFree (s.dir.poolFree - 1) s).trans ?_
    exact locksKept_makeChange (s := s.setPoolFree (s.dir.poolFree - 1)) hu hl _ _ _ _
  · exact .refl s

theorem locksKept_carryDetach : LocksKept s (carryDetach src e s) := by
  unfold carryDetach
  rw [hr]
  split
  · next hf _ _ =>
    cases hf
    exact locksKept_makeChange hu hl _ _ _ _
  · exact .refl s

end lockableOrders

end Sys2Proof.Machine
end

section
/-! SUPPORT. What every command does to the freeze flag and to locked windows (R143), and the statement. -/

namespace Sys2Proof.Machine

/-! ### Orders whose checks do not matter -/

/-- The decision of an order that keeps the locks whatever it is asked, so that its checks do not matter. -/
theorem locksKept_uncheckedOrder {takes : Byte → Bool} {check : Source → OrderEntry → State → Option Status}
    {carry : Source → OrderEntry → State → State} (hc : ∀ src e u, LocksKept u (carry src e u)) (s : State) :
    LocksKept s (decideOrder takes check carry s) :=
  locksKept_decideOrder (fun src e u _ => hc src e u) s

theorem locksKept_carryQuery (src : Source) (e : OrderEntry) (s : State) : LocksKept s (carryQuery src e s) := by
  unfold carryQuery
  split
  · exact .same rfl rfl
  · exact .refl s

theorem locksKept_carryFind (src : Source) (e : OrderEntry) (s : State) : LocksKept s (carryFind src e s) :=
  .same rfl rfl

theorem locksKept_carryList (src : Source) (e : OrderEntry) (s : State) : LocksKept s (carryList src e s) :=
  .same rfl rfl

theorem locksKept_carryReadStatus (src : Source) (e : OrderEntry) (s : State) : LocksKept s (carryReadStatus src e s) :=
  .same rfl rfl

theorem locksKept_carryReadEvents (src : Source) (e : OrderEntry) (s : State) : LocksKept s (carryReadEvents src e s) :=
  .same rfl rfl

theorem locksKept_carryClearEvents (src : Source) (e : OrderEntry) (s : State) : LocksKept s (carryClearEvents src e s) :=
  .same rfl rfl

theorem locksKept_carrySetEventEnables (src : Source) (e : OrderEntry) (s : State) : LocksKept s (carrySetEventEnables src e s) :=
  .same rfl rfl

theorem locksKept_carryClearResetCause (src : Source) (e : OrderEntry) (s : State) : LocksKept s (carryClearResetCause src e s) :=
  .same rfl rfl

theorem locksKept_carrySetFallback (src : Source) (e : OrderEntry) (s : State) : LocksKept s (carrySetFallback src e s) := by
  unfold carrySetFallback
  split
  · exact WindowsKept.locksKept (fun _ => ⟨rfl, rfl⟩) rfl
  · exact .refl s

theorem locksKept_carrySetRights (src : Source) (e : OrderEntry) (s : State) : LocksKept s (carrySetRights src e s) := by
  unfold carrySetRights
  split
  · exact .same rfl rfl
  · exact .refl s

/-- FREEZE sets the flag, which may have been set (R144). -/
theorem locksKept_carryFreeze (src : Source) (e : OrderEntry) (s : State) : LocksKept s (carryFreeze src e s) :=
  fun hs => ⟨hs, fun _ => rfl, fun _ _ hw _ => ⟨hw, rfl⟩⟩

theorem locksKept_carryBarring (b : Bool) (src : Source) (e : OrderEntry) (s : State) :
    LocksKept s (carryBarring b src e s) := by
  unfold carryBarring
  split
  · next p _ => cases p <;> exact .same rfl rfl
  · exact .refl s

theorem locksKept_carrySetNotify (src : Source) (e : OrderEntry) (s : State) : LocksKept s (carrySetNotify src e s) := by
  unfold carrySetNotify
  split
  · exact .same rfl rfl
  · exact .refl s

theorem locksKept_carrySetTimers (src : Source) (e : OrderEntry) (s : State) : LocksKept s (carrySetTimers src e s) := by
  unfold carrySetTimers
  split
  · exact .same rfl rfl
  · exact .refl s

/-! ### The path reset -/

theorem locksKept_returnRequestCredits (h : HostId) (n : Nat) (s : State) : LocksKept s (returnRequestCredits h n s) := by
  unfold returnRequestCredits
  split
  · exact .refl s
  · exact .same rfl rfl

theorem locksKept_flushIngress (h : HostId) (s : State) : LocksKept s (flushIngress h s) := by
  have emptied : LocksKept s (s.setIngress h []) := .same rfl rfl
  exact (emptied.trans (locksKept_returnRequestCredits h _ _)).trans (.same rfl rfl)

theorem locksKept_flushEgress (t : TargetId) (s : State) : LocksKept s (flushEgress t s) :=
  (ends_losePosts isPost t s).locksKept.trans (.same rfl rfl)

/-- A path reset leaves windows to the drains that it completes (R130, R192). -/
theorem locksKept_pathReset (s : State) : LocksKept s (pathReset s) := by
  have hosts := LocksKept.foldl (fun u h => flushIngress h u) (fun u h => locksKept_flushIngress h u) HostId.all
  have entries := fun u => (ends_leaveWaitingAll (fun _ => true) .aborted u).locksKept
  have targets := LocksKept.foldl (fun u t => flushEgress t u) (fun u t => locksKept_flushEgress t u) TargetId.all
  have marked : ∀ u, LocksKept u (addPathCause (setPlainFlag .resetSeen u)) := fun _ => .same rfl rfl
  exact ((((hosts _).trans (entries _)).trans (targets _)).trans (locksKept_completeDrains _)).trans (marked _)

theorem locksKept_carryResetPaths (src : Source) (e : OrderEntry) (s : State) : LocksKept s (carryResetPaths src e s) :=
  (locksKept_pathReset s).answerOrder

/-! ### Sessions and symbols -/

theorem locksKept_setFlag (f : Flag) (p : Port) (s : State) : LocksKept s (setFlag f p s) := .same rfl rfl

theorem locksKept_orphanEntries (h : HostId) (s : State) : LocksKept s (orphanEntries h s) := by
  refine LocksKept.foldl _ (fun u i => ?_) _ s
  split
  · exact .refl u
  · split
    · exact .same rfl rfl
    · exact .refl u
  · split
    · exact .same rfl rfl
    · exact .refl u

theorem locksKept_endHostSession (h : HostId) (held : Nat) (s : State) : LocksKept s (endHostSession h held s) := by
  have owed : ∀ (lost : Bool) u, LocksKept u (if lost then setNotificationOwed true u else u) := by
    intro lost u
    split
    · exact .same rfl rfl
    · exact .refl u
  have queues : ∀ u, LocksKept u (endOrders (.host h) ((u.setIngress h []).setMark h .clear)) := fun _ => .same rfl rfl
  unfold endHostSession
  refine LocksKept.trans ?_ (locksKept_setFlag _ _ _)
  refine LocksKept.trans ?_ (owed _ _)
  refine LocksKept.trans ?_ (queues _)
  refine LocksKept.trans ?_ (locksKept_orphanEntries h _)
  exact .same (by simp) (by simp)

theorem locksKept_endTargetSession (t : TargetId) (held : Nat) (s : State) : LocksKept s (endTargetSession t held s) := by
  have emptied : ∀ u : State, LocksKept u (u.setEgress t []) := fun _ => .same rfl rfl
  have ended : ∀ u : State, LocksKept u (setFlag .targetDown (.target t) (u.setHeld (.target t) held)) :=
    fun _ => .same rfl rfl
  exact (((ends_losePosts isPost t s).locksKept.trans (emptied _)).trans (ends_leaveWaitingAll _ _ _).locksKept).trans
    (ended _)

theorem locksKept_endMgmtSession (held : Nat) (s : State) : LocksKept s (endMgmtSession held s) := by
  unfold endMgmtSession endOrders setNoticeOwed
  dsimp only
  split <;> exact .same (by simp) (by simp)

/-- However a session ends, the locks stay (R147, R156 to R158). -/
theorem locksKept_endSession (p : Port) (l : LinkState) (held : Nat) (s : State) : LocksKept s (endSession p l held s) := by
  have link : LocksKept s (s.setLink p l) := .same rfl rfl
  cases p with
  | host h => exact (link.trans (locksKept_endHostSession h held _)).trans (locksKept_settle s _)
  | target t => exact (link.trans (locksKept_endTargetSession t held _)).trans (locksKept_settle s _)
  | mgmt => exact link.trans (locksKept_endMgmtSession held _)

theorem locksKept_startArrives (p : Port) (sym : Symbol) (s : State) : LocksKept s (startArrives p sym s) := by
  unfold startArrives
  split
  · exact .same rfl rfl
  · exact .same rfl rfl
  · exact .refl s
  · exact locksKept_endSession _ _ _ s

theorem locksKept_stopArrives (p : Port) (s : State) : LocksKept s (stopArrives p s) := by
  unfold stopArrives
  split
  · exact .refl s
  · exact locksKept_endSession _ _ _ s

theorem locksKept_restartArrives (p : Port) (s : State) : LocksKept s (restartArrives p s) := by
  unfold restartArrives
  split
  · exact .refl s
  · exact locksKept_endSession _ _ _ s

theorem locksKept_creditArrives (p : Port) (sym : Symbol) (s : State) : LocksKept s (creditArrives p sym s) := by
  unfold creditArrives
  split
  · exact locksKept_setFlag _ _ s
  · split
    · exact .refl s
    · split
      · exact locksKept_setFlag _ _ s
      · exact .same rfl rfl

/-- A symbol keeps the locks if what it does when it is sound keeps them (R162, R178). -/
theorem locksKept_screenSymbol {act : State → State} (ha : ∀ u, LocksKept u (act u)) (p : Port) (code : Byte) (sym : Symbol)
    (s : State) : LocksKept s (screenSymbol p code sym act s) := by
  unfold screenSymbol
  split
  · refine LocksKept.notify ?_ _ _
    split
    · exact ha s
    · exact locksKept_setFlag _ _ s
  · exact .refl s

theorem locksKept_symbolArrives (p : Port) (bytes : List Byte) (s : State) : LocksKept s (symbolArrives p bytes s) := by
  unfold symbolArrives
  split
  · refine locksKept_screenSymbol (fun u => ?_) _ _ _ s
    split
    · exact locksKept_startArrives _ _ u
    · split
      · exact locksKept_stopArrives _ u
      · split
        · exact locksKept_restartArrives _ u
        · split
          · exact locksKept_creditArrives _ _ u
          · exact locksKept_setFlag _ _ u
  · split
    · exact (locksKept_setFlag _ _ s).notify _ _
    · exact .refl s

theorem locksKept_startSent (p : Port) (s : State) : LocksKept s (startSent p s) := by
  cases p <;> exact .same (by simp [startSent, setFlag, grantCredits]) (by simp [startSent, setFlag, grantCredits])

/-! ### Packets -/

theorem locksKept_refundDiscarded (p : Port) (k : Byte) (s : State) : LocksKept s (refundDiscarded p k s) := by
  unfold refundDiscarded
  split
  · next h =>
    split
    · have spent : LocksKept s (spendRequestCredit h s) := .same rfl rfl
      exact spent.trans (locksKept_returnRequestCredits _ _ _)
    · split
      · exact .same rfl rfl
      · exact .refl s
  · split
    · exact .same rfl rfl
    · exact .refl s
  · exact .refl s

theorem locksKept_enterIngress (h : HostId) (r : Request) (s : State) : LocksKept s (enterIngress h r s) := by
  unfold enterIngress
  split
  · exact locksKept_setFlag _ _ s
  · exact .same rfl rfl

theorem locksKept_enterOrders (src : Source) (e : OrderEntry) (s : State) : LocksKept s (enterOrders src e s) := by
  unfold enterOrders
  split
  · exact locksKept_setFlag _ _ s
  · split
    · exact .same rfl rfl
    · exact .same rfl rfl

theorem locksKept_leaveWaiting (i : Fin Config.replyEntries) (st : Status) (d : List Byte) (s : State) :
    LocksKept s (leaveWaiting i st d s) := (ends_leaveWaiting i st d s).locksKept

theorem locksKept_matchArrival (t : TargetId) (f : Frame) (s : State) : LocksKept s (matchArrival t f s) := by
  unfold matchArrival
  split
  · dsimp only
    refine LocksKept.trans (LocksKept.trans ?_ (locksKept_leaveWaiting _ _ _ _)) (locksKept_settle s _)
    split
    · exact .refl s
    · exact locksKept_setFlag _ _ s
  · exact locksKept_setFlag _ _ s

theorem locksKept_handOn (p : Port) (k : Byte) (f : Frame) (s : State) : LocksKept s (handOn p k f s) := by
  unfold handOn
  split
  · split
    · exact locksKept_enterOrders _ _ s
    · exact locksKept_enterIngress _ _ s
  · exact locksKept_enterOrders _ _ s
  · exact locksKept_matchArrival _ _ s

/-- A packet that arrives moves counts, entries and queues; only a drain that it completes reaches a window (R148). -/
theorem locksKept_packetArrives (p : Port) (k : Byte) (f : Frame) (s : State) : LocksKept s (packetArrives p k f s) := by
  unfold packetArrives
  split
  · refine LocksKept.notify ?_ _ _
    split
    · exact locksKept_setFlag _ _ s
    · split
      · exact locksKept_handOn _ _ _ s
      · exact (locksKept_setFlag _ _ s).trans (locksKept_refundDiscarded _ _ _)
  · exact .refl s

theorem locksKept_deliverHead (t : TargetId) (pkt : EgressPacket) (s : State) : LocksKept s (deliverHead t pkt s) := by
  have sent : LocksKept s (sendAgainstCredit (.target t) (.egress pkt) (s.setEgress t (s.egress t).tail)) := .same rfl rfl
  exact sent.trans (lowerCountOf_spec pkt _).ends.locksKept

theorem locksKept_releaseSent (src : Source) (pkt : ReturnPacket) (s : State) : LocksKept s (releaseSent src pkt s) := by
  unfold releaseSent
  split
  · split
    · exact .same rfl rfl
    · exact .refl s
  · split
    · exact .same rfl rfl
    · exact .refl s
  · exact .refl s
  · exact .refl s

theorem locksKept_sendHead (src : Source) (pkt : ReturnPacket) (s : State) : LocksKept s (sendHead src pkt s) := by
  have sent : LocksKept s (sendAgainstCredit src.port (.back pkt) (s.setReturns src (s.returns src).tail)) := .same rfl rfl
  exact sent.trans (locksKept_releaseSent _ _ _)

theorem locksKept_forceDrain (j : DrainJob) (s : State) : LocksKept s (forceDrain j s) :=
  have flagged : ∀ u, LocksKept u (setPlainFlag .forcedRemoval u) := fun _ => .same rfl rfl
  ((ends_forceRemoval j.handle s).locksKept.trans (locksKept_completeDrains _)).trans (flagged _)

/-! ### Every command -/

/-- The state that an answer gives, if it gives one, keeps the locks of the state before. -/
def AnswerKeepsLocks (s : State) (a : Answer) : Prop := ∀ t, a = .next t → LocksKept s t

theorem LocksKept.next {s u : State} (h : LocksKept s u) : AnswerKeepsLocks s (.next u) := by
  intro t e
  cases e
  exact h

theorem keepsLocks_delivery (t : TargetId) (s : State) : AnswerKeepsLocks s (execDelivery t s) := by
  unfold execDelivery
  split
  · exact (LocksKept.refl s).next
  · split
    · exact (((locksKept_deliverHead _ _ s).trans (locksKept_settle s _)).notify _ _).next
    · exact (LocksKept.refl s).next

theorem keepsLocks_returnQueueSending (src : Source) (s : State) : AnswerKeepsLocks s (execReturnQueueSending src s) := by
  unfold execReturnQueueSending
  split
  · exact (LocksKept.refl s).next
  · split
    · exact (((locksKept_sendHead _ _ s).trans (locksKept_offerFreed s _)).notify _ _).next
    · exact (LocksKept.refl s).next

theorem keepsLocks_forwardAttempt (h : HostId) (s : State) : AnswerKeepsLocks s (execForwardAttempt h s) := by
  unfold execForwardAttempt
  split
  · exact ((moves_attempt h none s).locksKept.notify _ _).next
  · exact (LocksKept.refl s).next

theorem keepsLocks_replyTimerExpiry (i : Fin Config.replyEntries) (s : State) :
    AnswerKeepsLocks s (execReplyTimerExpiry i s) := by
  unfold execReplyTimerExpiry
  split
  · next w _ =>
    split
    · have flagged := locksKept_setFlag .replyTimeout (.target w.target) s
      exact (((flagged.trans (locksKept_leaveWaiting i .timeout [] _)).trans (locksKept_settle s _)).notify _ _).next
    · exact (LocksKept.refl s).next
  · exact (LocksKept.refl s).next

theorem keepsLocks_drainTimerExpiry (i : Fin Config.slots) (s : State) : AnswerKeepsLocks s (execDrainTimerExpiry i s) := by
  unfold execDrainTimerExpiry
  split
  · split
    · next j _ =>
      split
      · exact ((locksKept_abandonDrain j s).notify _ _).next
      · exact (((locksKept_forceDrain j s).trans (locksKept_offerFreed s _)).notify _ _).next
    · exact (LocksKept.refl s).next
  · exact (LocksKept.refl s).next

theorem keepsLocks_partStartSent (p : Port) (s : State) : AnswerKeepsLocks s (execPartStartSent p s) := by
  unfold execPartStartSent
  split
  · exact ((locksKept_startSent p s).notify _ _).next
  · exact (LocksKept.refl s).next

theorem keepsLocks_lossOfSignal (p : Port) (s : State) : AnswerKeepsLocks s (execLossOfSignal p s) := by
  unfold execLossOfSignal
  split
  · exact ((locksKept_stopArrives p s).notify _ _).next
  · exact (LocksKept.refl s).next

theorem locksKept_setPhase (ph : Phase) (s : State) : LocksKept s (setPhase ph s) := .same rfl rfl

theorem keepsLocks_resetNRelease (s : State) : AnswerKeepsLocks s (execResetNRelease s) := by
  unfold execResetNRelease
  split
  · exact (locksKept_setPhase _ s).next
  · exact (LocksKept.refl s).next

theorem keepsLocks_startUpEnd (s : State) : AnswerKeepsLocks s (execStartUpEnd s) := by
  unfold execStartUpEnd
  split
  · exact (locksKept_setPhase _ s).next
  · exact (LocksKept.refl s).next

theorem keepsLocks_activate (s : State) : AnswerKeepsLocks s (execActivate s) := by
  refine (locksKept_decideOrder (fun src e u hpass => ?_) s).next
  obtain ⟨i, w, hr, -, hstate⟩ := handleOrderChecks_passed hpass
  exact locksKept_carryActivate hr hstate

theorem keepsLocks_lock (s : State) : AnswerKeepsLocks s (execLock s) := by
  refine (locksKept_decideOrder (fun src e u hpass => ?_) s).next
  obtain ⟨i, w, hr, -, hstate⟩ := handleOrderChecks_passed hpass
  exact locksKept_carryLock hr hstate

/-- The commands that put every block at its power-on value (R194, R195). -/
def Resets (c : Instr) : Prop := c = .pinReset ∨ ∃ high, c = .powerOn high

/-- Every other command keeps the freeze flag and locked windows (R143). -/
theorem keepsLocks_exec {c : Instr} (hc : ¬Resets c) (s : State) : AnswerKeepsLocks s (exec c s) := by
  cases c with
  | powerOn high => exact absurd (.inr ⟨high, rfl⟩) hc
  | pinReset => exact absurd (.inl rfl) hc
  | resetNRelease => exact keepsLocks_resetNRelease s
  | startUpEnd => exact keepsLocks_startUpEnd s
  | start p sym => exact (locksKept_screenSymbol (locksKept_startArrives p sym) _ _ _ s).next
  | partStartSent p => exact keepsLocks_partStartSent p s
  | stop p sym => exact (locksKept_screenSymbol (locksKept_stopArrives p) _ _ _ s).next
  | restart p sym => exact (locksKept_screenSymbol (locksKept_restartArrives p) _ _ _ s).next
  | credit p sym => exact (locksKept_screenSymbol (locksKept_creditArrives p sym) _ _ _ s).next
  | lossOfSignal p => exact keepsLocks_lossOfSignal p s
  | post h f => exact (locksKept_packetArrives _ _ f s).next
  | fetch h f => exact (locksKept_packetArrives _ _ f s).next
  | order src f => exact (locksKept_packetArrives _ _ f s).next
  | reply t f => exact (locksKept_packetArrives _ _ f s).next
  | misdirectedPacket p k f => exact (locksKept_packetArrives p k f s).next
  | forwardAttempt h => exact keepsLocks_forwardAttempt h s
  | delivery t => exact keepsLocks_delivery t s
  | returnQueueSending src => exact keepsLocks_returnQueueSending src s
  | replyTimerExpiry i => exact keepsLocks_replyTimerExpiry i s
  | drainTimerExpiry i => exact keepsLocks_drainTimerExpiry i s
  | query => exact (locksKept_uncheckedOrder locksKept_carryQuery s).next
  | find => exact (locksKept_uncheckedOrder locksKept_carryFind s).next
  | list => exact (locksKept_uncheckedOrder locksKept_carryList s).next
  | readStatus => exact (locksKept_uncheckedOrder locksKept_carryReadStatus s).next
  | openWindow => exact (locksKept_uncheckedOrder locksKept_carryOpen s).next
  | activate => exact keepsLocks_activate s
  | modify => exact (locksKept_lockableOrder (fun _ _ _ _ _ => locksKept_carryModify) s).next
  | retire => exact (locksKept_lockableOrder (fun _ _ _ _ _ => locksKept_carryRetire) s).next
  | lock => exact keepsLocks_lock s
  | attach => exact (locksKept_lockableOrder (fun _ _ _ _ _ => locksKept_carryAttach) s).next
  | detach => exact (locksKept_lockableOrder (fun _ _ _ _ _ => locksKept_carryDetach) s).next
  | setFallback => exact (locksKept_uncheckedOrder locksKept_carrySetFallback s).next
  | setRights => exact (locksKept_uncheckedOrder locksKept_carrySetRights s).next
  | freeze => exact (locksKept_uncheckedOrder locksKept_carryFreeze s).next
  | barPort => exact (locksKept_uncheckedOrder (locksKept_carryBarring true) s).next
  | enablePort => exact (locksKept_uncheckedOrder (locksKept_carryBarring false) s).next
  | readEvents => exact (locksKept_uncheckedOrder locksKept_carryReadEvents s).next
  | clearEvents => exact (locksKept_uncheckedOrder locksKept_carryClearEvents s).next
  | setEventEnables => exact ((locksKept_uncheckedOrder locksKept_carrySetEventEnables s).notify _ _).next
  | setNotify => exact (locksKept_uncheckedOrder locksKept_carrySetNotify s).next
  | setTimers => exact (locksKept_uncheckedOrder locksKept_carrySetTimers s).next
  | resetPaths => exact ((locksKept_uncheckedOrder locksKept_carryResetPaths s).notify _ _).next
  | clearResetCause => exact (locksKept_uncheckedOrder locksKept_carryClearResetCause s).next
  | unknownOrder => exact (locksKept_uncheckedOrder (fun _ _ u => .refl u) s).next
  | lossOfSupply => exact LocksKept.next (.same rfl rfl)
  | malformedSymbol p bytes => exact (locksKept_symbolArrives p bytes s).next

/-! ### The statement -/

/-- At power-on values every slot is FREE (R26). -/
theorem lockedLive_powerOnValues (ph : Phase) (cause : ResetCause) (s : State) : LockedLive (powerOnValues ph cause s) := by
  intro i w hw
  have free : ((powerOnValues ph cause s).slot i).window = none := by
    show ((Vector.replicate Config.slots (⟨0, 0, none⟩ : Slot))[i]).window = none
    simp
  cases free.symm.trans hw

/-- A reset leaves locked windows LIVE: it leaves none, or, where it is part of a reset that holds, all as they are (log 8). -/
theorem lockedLive_resets {c : Instr} {s t : State} (hc : Resets c) (hs : LockedLive s) (h : exec c s = .next t) :
    LockedLive t := by
  rcases hc with rfl | ⟨high, rfl⟩
  · change execPinReset s = .next t at h
    unfold execPinReset at h
    split at h <;> cases h
    · exact hs
    · exact hs
    · exact lockedLive_powerOnValues _ _ s
    · exact lockedLive_powerOnValues _ _ s
  · cases h
    exact lockedLive_powerOnValues _ _ s

/-- Settles O20: every command but the two resets composes operations that write a slot only where it is FREE or its window is
not locked; the lock check and the state check see to that at a decision, and at a drain's end that a locked window is LIVE. -/
theorem locksAndFreezeLast : Obligations.LocksAndFreezeLast := by
  intro c s t hs h
  by_cases hc : Resets c
  · exact ⟨lockedLive_resets hc hs h, .inl hc⟩
  · obtain ⟨live, frozen, windows⟩ := keepsLocks_exec hc s t h hs
    exact ⟨live, .inr ⟨frozen, windows⟩⟩

end Sys2Proof.Machine
end

section
/-! SUPPORT. How many packets a return queue can hold (R153), and the statement. -/

namespace Sys2Proof.Machine

/-- A return queue holds REPLYs, ORDER_REPLYs, NOTICEs and notification POSTs, and nothing else (R152). -/
theorem length_returnQueue (q : List ReturnPacket) :
    q.length = (q.filterMap replyEntry).length + q.countP isOrderReply + q.countP isNotice + q.countP isNotification := by
  induction q with
  | nil => rfl
  | cons p q ih =>
    cases p <;>
      simp [List.filterMap_cons, List.countP_cons, replyEntry, isOrderReply, isNotice, isNotification] <;> omega

/-- Distinct reply entries are at most the 48 of the Reply Table (R52). -/
theorem ReturnsMatch.replies_le {s : State} (hr : ReturnsMatch s) (h : HostId) :
    ((s.returns (.host h)).filterMap replyEntry).length ≤ Config.replyEntries := by
  simpa using (hr.replies h).length_le_card

/-- An ANSWERED order entry is not silent, so that it takes a place of its order queue (R73, R76). -/
theorem ReturnsMatch.answered_le_placesUsed {s : State} (hr : ReturnsMatch s) (src : Source) :
    (s.orders src).countP (fun e => e.state == .answered) ≤ placesUsed (s.orders src) := by
  refine List.countP_mono_left fun e he answered => ?_
  have state : e.state = .answered := by simpa using answered
  have notTaken : isTaken e = false := by simp [isTaken, state]
  have notSilent : e.silent ≠ true := fun silent => by simp [hr.silent src e he silent] at notTaken
  simpa using notSilent

/-- The ORDER_REPLYs in a return queue are at most the places of its source's order queue (R73, R153). -/
theorem ReturnsMatch.orderReplies_le {s : State} (hr : ReturnsMatch s) (hq : QueuesFit s) (src : Source) :
    (s.returns src).countP isOrderReply ≤ Config.orderPlaces src :=
  (hr.orders src).trans ((hr.answered_le_placesUsed src).trans (hq.orders src))

/-- Settles O18: each kind of packet in a return queue has its own bound, and a queue is as long as its four kinds together. -/
theorem returnQueuesBounded : Obligations.ReturnQueuesBounded := by
  intro s hr hq
  obtain ⟨mgmtNotices, hostNotices⟩ := hr.notices
  obtain ⟨hostNotifications, mgmtNotifications⟩ := hr.notifications
  constructor
  · intro h
    have replies : _ ≤ 48 := hr.replies_le h
    have orderReplies : _ ≤ 4 := hr.orderReplies_le hq (.host h)
    have total := length_returnQueue (s.returns (.host h))
    have noNotice := hostNotices h
    have notifications := hostNotifications h
    exact ⟨by omega, replies, orderReplies, notifications⟩
  · have orderReplies : _ ≤ 8 := hr.orderReplies_le hq .mgmt
    have noReplies := congrArg List.length hr.mgmtReplies
    have total := length_returnQueue (s.returns .mgmt)
    rw [List.length_nil] at noReplies
    exact ⟨by omega, orderReplies, mgmtNotices⟩

end Sys2Proof.Machine
end

section
/-! SUPPORT. The moves that every event is made of: what each block can do in one atom, with the condition under which it does
it, and the lemma that says of every command which moves its event composes. -/

namespace Sys2Proof.Machine

/-! ### The moves -/

/-- Moves that touch flags, held credits, positions, settings, the cause record or the phase, and nothing that queues,
entries, windows or links hold. -/
inductive Quiet : State → State → Prop
  | raise (f : Flag) (ps : BitVec 9) (s : State) : Quiet s (s.setEvents (raiseFlag f ps s.events))
  | clear (fs : BitVec 12) (s : State) : Quiet s (s.setEvents (clearFlags fs s.events))
  | enable (fs : BitVec 12) (s : State) : Quiet s (s.setEvents (enableFlags fs s.events))
  | setting (n : NotifySetting) (s : State) : Quiet s (writeSetting n s)
  | held (p : Port) (n : Nat) (s : State) : Quiet s (s.setHeld p n)
  | entryPosition (h : HostId) (s : State) : Quiet s (s.setEntryPosition h)
  | egressPosition (g : TargetId) (h : HostId) (s : State) : Quiet s (s.setEgressPosition g h)
  | arbiter (src : Source) (s : State) : Quiet s (s.setArbiter src)
  | freeze (s : State) : Quiet s (setFrozen s)
  | barred (p : Port) (b : Bool) (s : State) : Quiet s (writeBarred p b s)
  | limits (r d : BitVec 16) (s : State) : Quiet s (writeLimits r d s)
  | emptyCause (s : State) : Quiet s (emptyCause s)
  | pathCause (s : State) : Quiet s (addPathCause s)
  | release (s : State) (h : s.ctl.phase = .held) : Quiet s (setPhase .startUp s)
  | enablePorts (s : State) (h : s.ctl.phase = .startUp) : Quiet s (setPhase .running s)
  | unpowered (s : State) : Quiet s (setPhase .unpowered (s.setEvents { s.events with noteN := false }))

/-- Moves of links, queues, entries and credits that change no count, no window and no drain job. -/
inductive QueueMove : State → State → Prop
  | relink (p : Port) (l : LinkState) (s : State) (running : s.ctl.phase = .running) (notUp : s.link p ≠ .up) (down : l ≠ .up) :
      QueueMove s (s.setLink p l)
  | starts (p : Port) (s : State) (running : s.ctl.phase = .running) (answering : s.link p = .answering) :
      QueueMove s ((grantCredits p (s.setLink p .up)).send p
        (.start (grantsAtStart p).1 (grantsAtStart p).2.1 (grantsAtStart p).2.2))
  | request (h : HostId) (r : Request) (s : State) (up : s.link (.host h) = .up)
      (room : (s.ingress h).length < Config.ingressPlaces) :
      QueueMove s ((spendRequestCredit h s).setIngress h (s.ingress h ++ [r]))
  | order (src : Source) (e : OrderEntry) (s : State) (up : s.link src.port = .up)
      (room : placesUsed (s.orders src) < Config.orderPlaces src) (queued : e.state = .queued) (loud : e.silent = false) :
      QueueMove s ((spendOrderCredit src s).setOrders src (s.orders src ++ [e]))
  | requestBounced (h : HostId) (s : State) (granted : s.ports.grantedRequest.get h ≠ 0) :
      QueueMove s (returnRequestCredits h 1 (spendRequestCredit h s))
  | orderBounced (src : Source) (s : State)
      (granted : s.ports.grantedOrder.get src ≠ 0 ∨
        s.link src.port = .up ∧ placesUsed (s.orders src) < Config.orderPlaces src) :
      QueueMove s (returnOrderCredit src (spendOrderCredit src s))
  | mark (h : HostId) (m : WaitMark) (s : State) (head : m = .clear ∨ s.ingress h ≠ []) : QueueMove s (s.setMark h m)
  | head (h : HostId) (s : State) (head : s.ingress h ≠ []) : QueueMove s (takeHead h s)
  | refused (h : HostId) (tag : BitVec 8) (st : Status) (i : Fin Config.replyEntries) (s : State) (head : s.ingress h ≠ [])
      (free : (s.entry i).state = .free) (fresh : tagInUse s h tag = false) : QueueMove s (answerRefused h tag st i s)
  | sent (src : Source) (pkt : ReturnPacket) (rest : List ReturnPacket) (s : State) (queue : s.returns src = pkt :: rest)
      (up : s.link src.port = .up) : QueueMove s (sendHead src pkt s)
  | hostDown (h : HostId) (l : LinkState) (n : Nat) (s : State) (running : s.ctl.phase = .running) (down : l ≠ .up) :
      QueueMove s (endHostSession h n (s.setLink (.host h) l))
  | mgmtDown (l : LinkState) (n : Nat) (s : State) (running : s.ctl.phase = .running) (down : l ≠ .up) :
      QueueMove s (endMgmtSession n (s.setLink .mgmt l))
  | targetDown (g : TargetId) (l : LinkState) (s : State) (running : s.ctl.phase = .running) (down : l ≠ .up)
      (empty : s.egress g = []) (ended : ∀ i w, (s.entry i).state = .waiting w → w.target ≠ g) :
      QueueMove s (s.setLink (.target g) l)
  | answered (src : Source) (e : OrderEntry) (st : Status) (rs : List Byte) (s : State)
      (oldest : oldestQueued s src = some e) : QueueMove s (answerOrder src e st rs s)
  | cleared (g : TargetId) (s : State) (noPost : ∀ pkt ∈ s.egress g, isPost pkt = false) : QueueMove s (s.setEgress g [])
  | flushed (h : HostId) (s : State) : QueueMove s (flushIngress h s)

/-- Moves that lower counts. -/
inductive Ebb : State → State → Prop
  | left (i : Fin Config.replyEntries) (w : Waiting) (st : Status) (d : List Byte) (s : State)
      (waiting : (s.entry i).state = .waiting w) : Ebb s (leaveWaiting i st d s)
  | lost (picks : EgressPacket → Bool) (g : TargetId) (s : State) (posts : ∀ pkt, picks pkt = true → isPost pkt = true) :
      Ebb s (removePosts picks g s)
  | delivered (g : TargetId) (pkt : EgressPacket) (rest : List EgressPacket) (s : State) (queue : s.egress g = pkt :: rest) :
      Ebb s (deliverHead g pkt s)

/-- A route that a request may be sent on: a LIVE window under its slot's generation, or the fallback (R24, R35). -/
def RouteStands (s : State) : Route → Prop
  | .window hd => (s.slot hd.slot).generation = hd.generation ∧ ∃ w, (s.slot hd.slot).window = some w ∧ w.state = .live
  | .fallback => True

/-- Moves that raise counts. -/
inductive Flow : State → State → Prop
  | fetched (h : HostId) (tag : BitVec 8) (n : Nat) (hop : Hop) (i : Fin Config.replyEntries) (s : State)
      (head : s.ingress h ≠ []) (free : (s.entry i).state = .free) (fresh : tagInUse s h tag = false)
      (opens : targetOpen hop.target s = true) (room : (s.egress hop.target).length < Config.egressPlaces)
      (stands : RouteStands s hop.route) : Flow s (forwardFetch h tag n hop i s)
  | posted (h : HostId) (d : List Byte) (hop : Hop) (g : TargetId) (s : State) (opens : targetOpen g s = true)
      (room : WindowsFit s → (s.egress g).length < Config.egressPlaces) (stands : RouteStands s hop.route) :
      Flow s (placePost h d hop g s)

/-- An attach takes its record from the pool at the decision (R112). -/
def reserve : PendingChange → State → State
  | .attach _, s => s.setPoolFree (s.dir.poolFree - 1)
  | _, s => s

/-- A change has passed its checks on a window: what it makes of the window fits, its new range meets no other slot's, and the
record it needs is in the pool (R87, R88, R93, R111). -/
structure ChangeFits (s : State) (i : Fin Config.slots) (w : Window) (c : PendingChange) : Prop where
  fields : FieldsFit w → FieldsFit (changed c w)
  range : ∀ f, c = .modify f → f.movesRange = true → overlapsOther s (some i) (modifiedSpan f w) = false
  record : ∀ r, c = .attach r → s.dir.poolFree ≠ 0

/-- The drain of a job is abandoned, but for its flag (R125). -/
def abandonJob (j : DrainJob) (s : State) : State :=
  let i := j.handle.slot
  let restored :=
    match (s.slot i).window with
    | some w =>
      match w.state with
      | .drainRetire => setWindow i { w with state := .live } s
      | .drainChange (.attach _) => (setWindow i { w with state := .live } s).setPoolFree (s.dir.poolFree + 1)
      | .drainChange _ => setWindow i { w with state := .live } s
      | _ => s
    | none => s
  closeOrder j.source i .drainExpired (removeJob i restored)

theorem abandonDrain_eq (j : DrainJob) (s : State) : abandonDrain j s = setPlainFlag .drainExpired (abandonJob j s) := rfl

/-- Moves of windows, the pool, rights and drain jobs. -/
inductive Decision : State → State → Prop
  | fallback (f : Option TargetId) (s : State) (thawed : s.eng.frozen = false) : Decision s (s.setFallback f)
  | rights (h : HostId) (r : Rights) (a : Option Range) (s : State) (thawed : s.eng.frozen = false) :
      Decision s (writeRights h r a s)
  | filled (i : Fin Config.slots) (w : Window) (s : State) (thawed : s.eng.frozen = false) (free : (s.slot i).window = none)
      (settled : w.state = .staged ∨ w.state = .live) (chain : w.chain = []) (fields : FieldsFit w)
      (range : overlapsOther s none (currentSpan w) = false) :
      Decision s (s.setSlot i { s.slot i with count := 0, window := some w })
  | activated (i : Fin Config.slots) (w : Window) (s : State) (thawed : s.eng.frozen = false)
      (window : (s.slot i).window = some w) (staged : w.state = .staged) : Decision s (setWindow i { w with state := .live } s)
  | locked (i : Fin Config.slots) (w : Window) (s : State) (thawed : s.eng.frozen = false)
      (window : (s.slot i).window = some w) (live : w.state = .live) : Decision s (setWindow i { w with locked := true } s)
  | changed (i : Fin Config.slots) (w : Window) (c : PendingChange) (s : State) (thawed : s.eng.frozen = false)
      (window : (s.slot i).window = some w) (settled : w.state = .staged ∨ w.state = .live) (fits : ChangeFits s i w c) :
      Decision s (applyChange i c w (reserve c s))
  | drains (i : Fin Config.slots) (w : Window) (c : PendingChange) (m : Mode) (src : Source) (e : OrderEntry) (s : State)
      (thawed : s.eng.frozen = false) (window : (s.slot i).window = some w) (live : w.state = .live)
      (traffic : (s.slot i).count ≠ 0) (room : s.eng.drains.length < Config.drainPlaces) (fits : ChangeFits s i w c)
      (oldest : oldestQueued s src = some e) : Decision s (startDrain i w (.drainChange c) .change m src e (reserve c s))
  | retires (i : Fin Config.slots) (w : Window) (m : Mode) (src : Source) (e : OrderEntry) (s : State)
      (thawed : s.eng.frozen = false) (window : (s.slot i).window = some w) (live : w.state = .live)
      (traffic : (s.slot i).count ≠ 0) (room : s.eng.drains.length < Config.drainPlaces)
      (oldest : oldestQueued s src = some e) : Decision s (startDrain i w .drainRetire .retire m src e s)
  | freed (i : Fin Config.slots) (w : Window) (s : State) (thawed : s.eng.frozen = false) (window : (s.slot i).window = some w)
      (settled : w.state = .staged ∨ w.state = .live ∧ (s.slot i).count = 0) : Decision s (freeSlot i s)
  | abandoned (j : DrainJob) (s : State) (job : j ∈ s.eng.drains) : Decision s (abandonJob j s)

/-- What an event does before drains complete. -/
inductive Ebbing (s t : State) : Prop
  | quiet (h : Quiet s t)
  | queue (h : QueueMove s t)
  | ebb (h : Ebb s t)

abbrev Ebbs : State → State → Prop := Relation.ReflTransGen Ebbing

/-- One move of an event. A count falls only where the completion of drains follows (R23, R122). -/
inductive Move : State → State → Prop
  | quiet {s t : State} (h : Quiet s t) : Move s t
  | queue {s t : State} (h : QueueMove s t) : Move s t
  | flow {s t : State} (h : Flow s t) : Move s t
  | decision {s t : State} (h : Decision s t) : Move s t
  | drains {s u : State} (h : Ebbs s u) : Move s (completeDrains u)

abbrev Moves : State → State → Prop := Relation.ReflTransGen Move

theorem Quiet.moves {s t : State} (h : Quiet s t) : Moves s t := .single (.quiet h)

theorem QueueMove.moves {s t : State} (h : QueueMove s t) : Moves s t := .single (.queue h)

theorem Flow.moves {s t : State} (h : Flow s t) : Moves s t := .single (.flow h)

theorem Decision.moves {s t : State} (h : Decision s t) : Moves s t := .single (.decision h)

theorem Ebbs.complete {s u : State} (h : Ebbs s u) : Moves s (completeDrains u) := .single (.drains h)

theorem Quiet.ebbs {s t : State} (h : Quiet s t) : Ebbs s t := .single (.quiet h)

theorem QueueMove.ebbs {s t : State} (h : QueueMove s t) : Ebbs s t := .single (.queue h)

theorem Ebb.ebbs {s t : State} (h : Ebb s t) : Ebbs s t := .single (.ebb h)

theorem quiet_setFlag (f : Flag) (p : Port) (s : State) : Quiet s (setFlag f p s) := .raise f (portMask p) s

theorem quiet_setPlainFlag (f : Flag) (s : State) : Quiet s (setPlainFlag f s) := .raise f 0 s

/-! ### What quiet moves leave alone -/

/-- Nothing that queues, entries, windows, credits granted or links hold differs. -/
structure SameQueues (s t : State) : Prop where
  dir : t.dir = s.dir
  fwd : t.fwd = s.fwd
  entries : t.table.entries = s.table.entries
  orders : t.eng.orders = s.eng.orders
  drains : t.eng.drains = s.eng.drains
  rights : t.eng.rights = s.eng.rights
  allotment : t.eng.allotment = s.eng.allotment
  link : t.ports.link = s.ports.link
  grantedRequest : t.ports.grantedRequest = s.ports.grantedRequest
  grantedOrder : t.ports.grantedOrder = s.ports.grantedOrder
  session : t.ports.session = s.ports.session
  egress : t.ports.egress = s.ports.egress
  returns : t.ports.returns = s.ports.returns

theorem Quiet.same {s t : State} (h : Quiet s t) : SameQueues s t := by
  cases h with
  | barred p b s => cases p <;> exact ⟨rfl, rfl, rfl, rfl, rfl, rfl, rfl, rfl, rfl, rfl, rfl, rfl, rfl⟩
  | _ => exact ⟨rfl, rfl, rfl, rfl, rfl, rfl, rfl, rfl, rfl, rfl, rfl, rfl, rfl⟩

namespace SameQueues

variable {s t : State} (h : SameQueues s t)

include h

theorem slot (i : Fin Config.slots) : t.slot i = s.slot i := by unfold State.slot; rw [h.dir]

theorem entry (i : Fin Config.replyEntries) : t.entry i = s.entry i := by unfold State.entry; rw [h.entries]

theorem ingress_eq (k : HostId) : t.ingress k = s.ingress k := by unfold State.ingress; rw [h.fwd]

theorem mark_eq (k : HostId) : t.mark k = s.mark k := by unfold State.mark; rw [h.fwd]

theorem orders_eq (src : Source) : t.orders src = s.orders src := by unfold State.orders; rw [h.orders]

theorem link_eq (p : Port) : t.link p = s.link p := by unfold State.link; rw [h.link]

theorem egress_eq (g : TargetId) : t.egress g = s.egress g := by unfold State.egress; rw [h.egress]

theorem returns_eq (src : Source) : t.returns src = s.returns src := by unfold State.returns; rw [h.returns]

end SameQueues

/-! ### A forward attempt as moves (R31 to R45) -/

/-- What a plan does is the same whether the head leaves before it or after it. -/
theorem carryOut_takeHead (h : HostId) (o : Option (Fin Config.replyEntries)) (plan : Plan) (s : State) :
    carryOut h o plan (takeHead h s) = takeHead h (carryOut h o plan s) := by
  have raise : ∀ r u, raiseCount r (takeHead h u) = takeHead h (raiseCount r u) := by intro r u; cases r <;> rfl
  have place : ∀ d hop g u, placePost h d hop g (takeHead h u) = takeHead h (placePost h d hop g u) := fun d hop g u =>
    raise hop.route (pushEgress g (.post hop.route h hop.address d) u)
  have entry : entryFor (takeHead h s) o = entryFor s o := rfl
  unfold carryOut
  cases plan with
  | discard => rfl
  | drop => rfl
  | answer tag st =>
    dsimp only
    rw [entry]
    cases entryFor s o <;> rfl
  | sendFetch tag n hop =>
    dsimp only
    rw [entry]
    cases entryFor s o with
    | none => rfl
    | some i =>
      let w : Waiting := ⟨h, tag, s.ports.session.get h, false, n, hop.route, hop.target, s.eng.replyLimit⟩
      exact raise hop.route (pushEgress hop.target (.fetch i (s.entry i).epoch hop.address n)
        (s.setEntry i ⟨(s.entry i).epoch, .waiting w⟩))
  | sendPost d hop =>
    have copy : copyPort (takeHead h s) hop = copyPort s hop := rfl
    have skipped : skippedPort (takeHead h s) hop = skippedPort s hop := rfl
    dsimp only
    unfold forwardPost
    dsimp only
    rw [place, copy, skipped]
    cases copyPort s hop with
    | some m => exact place d hop m _
    | none => cases skippedPort s hop <;> rfl

/-- A request is forwarded on a route that stands. -/
theorem lookup_route {s : State} {h : HostId} {r : Request} {hop : Hop} (e : lookup s h r = .forward hop) :
    RouteStands s hop.route := by
  unfold lookup at e
  split at e
  · cases e
  · split at e
    · split at e
      · next i _ w hw =>
        unfold lookupWindow at e
        split at e
        · cases e
        · cases e
        · cases e
        · next live =>
          split at e
          · cases e
          · split at e
            · cases e
            · split at e
              · cases e
              · cases e
                exact ⟨rfl, w, hw, live⟩
      · cases e
    · split at e
      · cases e
      · unfold lookupFallback at e
        split at e
        · cases e
        · split at e
          · cases e
            trivial
          · cases e

theorem mirrorPort_mem {chain : List ExtRecord} {m : TargetId} (h : mirrorPort chain = some m) : .mirror m ∈ chain := by
  unfold mirrorPort at h
  obtain ⟨r, hr, hm⟩ := List.exists_of_findSome?_eq_some h
  split at hm
  · cases hm
    exact hr
  · cases hm

/-- A window that fits has no mirror onto its own target (R108). -/
theorem lookup_mirror {s : State} {h : HostId} {r : Request} {hop : Hop} (e : lookup s h r = .forward hop) (fit : WindowsFit s)
    {m : TargetId} (hm : hop.mirror = some m) : m ≠ hop.target := by
  unfold lookup at e
  split at e
  · cases e
  · split at e
    · split at e
      · next i _ w hw =>
        unfold lookupWindow at e
        split at e
        · cases e
        · cases e
        · cases e
        · split at e
          · cases e
          · split at e
            · cases e
            · split at e
              · cases e
              · cases e
                exact (fit _ w hw).1.mirror m (mirrorPort_mem hm)
      · cases e
    · split at e
      · cases e
      · unfold lookupFallback at e
        split at e
        · cases e
        · split at e
          · cases e
            cases hm
          · cases e

/-- What a plan has passed before it is carried out. -/
def Plan.Checked (s : State) (h : HostId) : Plan → Prop
  | .answer tag _ => tagInUse s h tag = false
  | .sendFetch tag _ hop => tagInUse s h tag = false ∧ ∃ r, lookup s h r = .forward hop
  | .sendPost _ hop => ∃ r, lookup s h r = .forward hop
  | _ => True

theorem planOf_checked (s : State) (h : HostId) (r : Request) : (planOf s h r).Checked s h := by
  unfold planOf
  split
  · split
    · trivial
    · next unused =>
      have fresh : tagInUse s h _ = false := Bool.eq_false_iff.2 unused
      split
      · exact fresh
      · next hop e => exact ⟨fresh, _, e⟩
  · split
    · trivial
    · next hop e => exact ⟨_, e⟩

theorem egressFull_eq_false {s : State} {g : TargetId} : egressFull s g = false ↔ (s.egress g).length < Config.egressPlaces := by
  simp [egressFull]

theorem raiseCount_ports (r : Route) (s : State) : (raiseCount r s).ports = s.ports := by cases r <;> rfl

theorem RouteStands.of_windows {s t : State} (h : WindowsKept s t) {r : Route} (hr : RouteStands s r) : RouteStands t r := by
  cases r with
  | fallback => trivial
  | window hd =>
    obtain ⟨hg, w, hw, live⟩ := hr
    exact ⟨(h _).2.trans hg, w, (h _).1.trans hw, live⟩

theorem WindowsFit.of_windows {s t : State} (h : WindowsKept s t) (hs : WindowsFit s) : WindowsFit t :=
  fun i w hw => hs i w ((h i).1 ▸ hw)

theorem WindowsKept.symm {s t : State} (h : WindowsKept s t) : WindowsKept t s := fun i => ⟨(h i).1.symm, (h i).2.symm⟩

/-- A POST that lacks nothing has a place in its target's queue, and one in its mirror port's queue if it has a copy. -/
theorem post_room {s : State} {d : List Byte} {hop : Hop} (hl : lacking s (.sendPost d hop) = .clear) :
    (∀ m, copyPort s hop = some m → (s.egress m).length < Config.egressPlaces) ∧
      ((∀ m, copyPort s hop = some m → m ≠ hop.target) → (s.egress hop.target).length < Config.egressPlaces) := by
  unfold lacking at hl
  dsimp only at hl
  cases hc : copyPort s hop with
  | none =>
    rw [hc] at hl
    have places := congrArg (fun m : WaitMark => m.places.get hop.target) hl
    simp only [PerTarget.get_set_self, WaitMark.clear, PerTarget.get_replicate] at places
    exact ⟨fun m hm => absurd hm (by simp), fun _ => egressFull_eq_false.1 places⟩
  | some m =>
    rw [hc] at hl
    have mirror := congrArg (fun x : WaitMark => x.places.get m) hl
    have target := congrArg (fun x : WaitMark => x.places.get hop.target) hl
    simp only [PerTarget.get_set_self, WaitMark.clear, PerTarget.get_replicate] at mirror target
    refine ⟨fun k hk => ?_, fun apart => ?_⟩
    · cases hk
      exact egressFull_eq_false.1 mirror
    · rw [PerTarget.get_set_ne _ _ (apart m rfl).symm, PerTarget.get_set_self] at target
      exact egressFull_eq_false.1 target

theorem placePost_egress (h : HostId) (d : List Byte) (hop : Hop) (g k : TargetId) (s : State) :
    (placePost h d hop g s).egress k = if k = g then s.egress g ++ [.post hop.route h hop.address d] else s.egress k := by
  unfold placePost pushEgress
  rw [raiseCount_egress, State.setEgress_egress]

theorem targetOpen_copyPort {s : State} {hop : Hop} {m : TargetId} (h : copyPort s hop = some m) :
    hop.mirror = some m ∧ targetOpen m s = true := by
  unfold copyPort at h
  split at h
  · next hm =>
    split at h
    · next ho =>
      cases h
      exact ⟨hm, ho⟩
    · cases h
  · cases h

/-- A POST is forwarded by one move to each queue it enters, or with MIRROR_SKIPPED (R42, R109). -/
theorem moves_of_forwardPost {s : State} {h : HostId} {r : Request} {d : List Byte} {hop : Hop}
    (he : lookup s h r = .forward hop) (hl : lacking s (.sendPost d hop) = .clear) : Moves s (forwardPost h d hop s) := by
  obtain ⟨mirrorRoom, targetRoom⟩ := post_room hl
  have stands := lookup_route he
  have apart : WindowsFit s → ∀ m, copyPort s hop = some m → m ≠ hop.target := fun fit m hm =>
    lookup_mirror he fit (targetOpen_copyPort hm).1
  have first : Moves s (placePost h d hop hop.target s) :=
    (Flow.posted h d hop hop.target s (lookup_open he) (fun fit => targetRoom (apart fit)) stands).moves
  have kept := moves_placePost h d hop hop.target s (lookup_open he)
  unfold forwardPost
  dsimp only
  split
  · next m hm =>
    refine first.trans (Flow.posted h d hop m _ ?_ (fun fit => ?_) (stands.of_windows kept.windows)).moves
    · rw [targetOpen_congr kept.link kept.barredTarget]
      exact (targetOpen_copyPort hm).2
    · rw [placePost_egress, if_neg (apart (fit.of_windows kept.windows.symm) m hm)]
      exact mirrorRoom m hm
  · split
    · exact first.trans (quiet_setFlag _ _ _).moves
    · exact first

/-- A plan that lacks nothing is carried out in moves. -/
theorem moves_of_carryOut {s : State} {h : HostId} {plan : Plan} (o : Option (Fin Config.replyEntries))
    (head : s.ingress h ≠ []) (checked : plan.Checked s h) (hl : lacking s plan = .clear) : Moves s (carryOut h o plan s) := by
  unfold carryOut
  cases plan with
  | discard => exact (quiet_setFlag _ _ _).moves
  | drop => exact (quiet_setFlag _ _ _).moves
  | answer tag st =>
    dsimp only
    split
    · next i hi => exact (QueueMove.refused h tag st i s head (entryFor_free hi) checked).moves
    · exact .refl
  | sendFetch tag n hop =>
    obtain ⟨fresh, r, he⟩ := checked
    have places := congrArg (fun m : WaitMark => m.places.get hop.target) hl
    simp only [lacking, PerTarget.get_set_self, WaitMark.clear, PerTarget.get_replicate] at places
    dsimp only
    split
    · next i hi =>
      exact (Flow.fetched h tag n hop i s head (entryFor_free hi) fresh (lookup_open he) (egressFull_eq_false.1 places)
        (lookup_route he)).moves
    · exact .refl
  | sendPost d hop =>
    obtain ⟨r, he⟩ := checked
    exact moves_of_forwardPost he hl

theorem moves_of_attempt (h : HostId) (o : Option (Fin Config.replyEntries)) (s : State) : Moves s (attempt h o s) := by
  have unmarked : Moves s (s.setMark h .clear) := (QueueMove.mark h .clear s (.inl rfl)).moves
  unfold attempt
  dsimp only
  split
  · exact unmarked
  · next r rest hq =>
    have head : (s.setMark h .clear).ingress h ≠ [] := by rw [hq]; exact List.cons_ne_nil r rest
    split
    · next hl =>
      have carried := moves_of_carryOut o head (planOf_checked _ h r) hl
      have keeps : (carryOut h o (planOf (s.setMark h .clear) h r) (s.setMark h .clear)).ingress h ≠ [] := by
        unfold State.ingress
        rw [carryOut_fwd]
        exact head
      rw [carryOut_takeHead]
      exact (unmarked.trans carried).trans (QueueMove.head h _ keeps).moves
    · exact unmarked.trans (QueueMove.mark h _ _ (.inr head)).moves

/-- The offers of an event are attempts and moves of positions. -/
theorem moves_of_offerFreed (before s : State) : Moves s (offerFreed before s) :=
  rel_offerFreed (R := Moves) (fun _ => .refl) (fun _ _ _ => .trans) moves_of_attempt (fun h s => (Quiet.entryPosition h s).moves)
    (fun g h s => (Quiet.egressPosition g h s).moves) before s

/-- The tail of an event whose counts have fallen. -/
theorem Ebbs.settle {s u : State} (h : Ebbs s u) (before : State) : Moves s (settle before u) :=
  h.complete.trans (moves_of_offerFreed before _)

end Sys2Proof.Machine
end

section
/-! SUPPORT. Which moves the event of every command composes: removals of traffic, session ends, arrivals, decisions of orders,
and all 46 commands. -/

namespace Sys2Proof.Machine

/-! ### Removals of traffic -/

theorem ebbs_of_leaveWaiting (i : Fin Config.replyEntries) (st : Status) (d : List Byte) (s : State) :
    Ebbs s (leaveWaiting i st d s) := by
  by_cases h : ∃ w, (s.entry i).state = .waiting w
  · obtain ⟨w, hw⟩ := h
    exact (Ebb.left i w st d s hw).ebbs
  · rw [leaveWaiting_other (fun w hw => h ⟨w, hw⟩)]

theorem ebbs_of_leaveWaitingAll (picks : Waiting → Bool) (st : Status) (s : State) : Ebbs s (leaveWaitingAll picks st s) := by
  unfold leaveWaitingAll
  refine foldl_rel (R := Ebbs) (fun _ => .refl) (fun _ _ _ => .trans) _ (fun u i => ?_) _ _
  split
  · split
    · exact ebbs_of_leaveWaiting _ _ _ _
    · exact .refl
  · exact .refl

theorem ebbs_of_losePosts {picks : EgressPacket → Bool} (posts : ∀ pkt, picks pkt = true → isPost pkt = true) (g : TargetId)
    (s : State) : Ebbs s (losePosts picks g s) := by
  unfold losePosts
  split
  · exact (Ebb.lost picks g s posts).ebbs.trans (quiet_setFlag _ _ _).ebbs
  · exact .refl

theorem namesWindow_isPost (h : Handle) (pkt : EgressPacket) (hp : namesWindow h pkt = true) : isPost pkt = true := by
  cases pkt with
  | post r o a d => rfl
  | fetch i ep a n => cases hp

theorem ebbs_of_forceRemoval (h : Handle) (s : State) : Ebbs s (forceRemoval h s) := by
  unfold forceRemoval
  exact (ebbs_of_leaveWaitingAll _ _ _).trans
    (foldl_rel (R := Ebbs) (fun _ => .refl) (fun _ _ _ => .trans) _
      (fun u g => ebbs_of_losePosts (namesWindow_isPost h) g u) _ _)

theorem moves_of_forceDrain (j : DrainJob) (s : State) : Moves s (forceDrain j s) :=
  (ebbs_of_forceRemoval j.handle s).complete.trans (quiet_setPlainFlag _ _).moves

theorem lowerCountOf_egress (pkt : EgressPacket) (s : State) (g : TargetId) : (lowerCountOf pkt s).egress g = s.egress g := by
  cases pkt with
  | post r o a d => cases r <;> rfl
  | fetch i ep a n => rfl

/-- The POSTs picked are gone from their queue, and from no other (R126, R157). -/
theorem removePosts_egress (picks : EgressPacket → Bool) (g k : TargetId) (s : State) :
    (removePosts picks g s).egress k = if k = g then (s.egress g).filter (fun pkt => !picks pkt) else s.egress k := by
  have lower : ∀ (l : List EgressPacket) u, (l.foldl (fun u pkt => lowerCountOf pkt u) u).egress k = u.egress k := by
    intro l
    induction l with
    | nil => exact fun _ => rfl
    | cons pkt l ih => exact fun u => (ih _).trans (lowerCountOf_egress pkt u k)
  unfold removePosts
  rw [lower, State.setEgress_egress]

theorem losePosts_egress (picks : EgressPacket → Bool) (g k : TargetId) (s : State) :
    (losePosts picks g s).egress k = if k = g then (s.egress g).filter (fun pkt => !picks pkt) else s.egress k := by
  unfold losePosts
  split
  · exact removePosts_egress picks g k s
  · next none =>
    split
    · next hk =>
      have all : ∀ pkt ∈ s.egress g, (!picks pkt) = true := by simpa using none
      rw [hk, List.filter_eq_self.2 all]
    · rfl

/-- After its POSTs are lost, a queue is emptied without any count (R157, R159). -/
theorem ebbs_of_emptied (g : TargetId) (s : State) : Ebbs s ((losePosts isPost g s).setEgress g []) := by
  refine (ebbs_of_losePosts (fun _ h => h) g s).trans (QueueMove.cleared g _ fun pkt hp => ?_).ebbs
  rw [losePosts_egress, if_pos rfl] at hp
  simpa using (List.mem_filter.1 hp).2

theorem ebbs_of_flushEgress (g : TargetId) (s : State) : Ebbs s (flushEgress g s) := ebbs_of_emptied g s

/-! ### Entries that have ended -/

@[simp] theorem lowerCount_entry (r : Route) (s : State) (k : Fin Config.replyEntries) : (lowerCount r s).entry k = s.entry k := by
  cases r <;> rfl

/-- What one entry is after it has left WAITING, and that no other differs (R61, R68). -/
theorem leaveWaiting_entry {s : State} {i : Fin Config.replyEntries} {w : Waiting} (h : (s.entry i).state = .waiting w)
    (st : Status) (d : List Byte) (k : Fin Config.replyEntries) :
    (leaveWaiting i st d s).entry k =
      if k = i then
        if w.orphan then ⟨(s.entry i).epoch + 1, .free⟩
        else ⟨(s.entry i).epoch, .answered ⟨w.host, w.tag, w.session, some (w.route, w.target), st, d⟩⟩
      else s.entry k := by
  have left := entryLeft_leaveWaiting h st d s.events
  rw [State.setEvents_same] at left
  split
  · next hk => rw [hk, left.entry_self]
  · next hk => exact left.entry_ne hk

/-- One step of ending all waits that a test picks. -/
def endWait (picks : Waiting → Bool) (st : Status) (s : State) (i : Fin Config.replyEntries) : State :=
  match (s.entry i).state with
  | .waiting w => if picks w then leaveWaiting i st [] s else s
  | _ => s

theorem leaveWaitingAll_eq (picks : Waiting → Bool) (st : Status) (s : State) :
    leaveWaitingAll picks st s = (List.finRange Config.replyEntries).foldl (endWait picks st) s := rfl

theorem endWait_entry (picks : Waiting → Bool) (st : Status) (s : State) (i k : Fin Config.replyEntries) :
    (endWait picks st s i).entry k = if k = i then endedEntry picks st (s.entry i) else s.entry k := by
  unfold endWait endedEntry
  cases hs : (s.entry i).state with
  | free => split <;> simp_all
  | answered a => split <;> simp_all
  | waiting w =>
    dsimp only
    cases hp : picks w with
    | true => simpa using leaveWaiting_entry hs st [] k
    | false => split <;> simp_all

/-- A fold over distinct indices, each step of which writes its own entry from what stood there. -/
theorem foldl_entry {f : State → Fin Config.replyEntries → State} {g : Entry → Entry}
    (step : ∀ s i k, (f s i).entry k = if k = i then g (s.entry i) else s.entry k) (l : List (Fin Config.replyEntries))
    (distinct : l.Nodup) (s : State) (k : Fin Config.replyEntries) :
    (l.foldl f s).entry k = if k ∈ l then g (s.entry k) else s.entry k := by
  induction l generalizing s with
  | nil => rfl
  | cons i l ih =>
    obtain ⟨new, distinct⟩ := List.nodup_cons.1 distinct
    rw [List.foldl_cons, ih distinct, step]
    by_cases hk : k = i
    · subst hk
      simp [new]
    · simp [hk]

/-- Every entry after all waits that a test picks have ended (R61, R63, R64, R68). -/
theorem leaveWaitingAll_entry (picks : Waiting → Bool) (st : Status) (s : State) (k : Fin Config.replyEntries) :
    (leaveWaitingAll picks st s).entry k = endedEntry picks st (s.entry k) := by
  rw [leaveWaitingAll_eq, foldl_entry (endWait_entry picks st) _ (List.nodup_finRange _), if_pos (List.mem_finRange k)]

/-- No entry that a test picks is WAITING once all of them have ended. -/
theorem endedEntry_waiting {picks : Waiting → Bool} {st : Status} {e : Entry} {w : Waiting}
    (h : (endedEntry picks st e).state = .waiting w) : e.state = .waiting w ∧ picks w = false := by
  unfold endedEntry at h
  split at h
  · next v hv =>
    split at h
    · split at h <;> cases h
    · next hp =>
      cases hv.symm.trans h
      exact ⟨hv, by simpa using hp⟩
  · exact absurd h (by simp_all)

/-! ### Session ends -/

section setLink

variable (p : Port) (l : LinkState)

theorem lowerCount_setLink (r : Route) (s : State) : lowerCount r (s.setLink p l) = (lowerCount r s).setLink p l := by
  cases r <;> rfl

theorem leaveWaiting_setLink (i : Fin Config.replyEntries) (st : Status) (d : List Byte) (s : State) :
    leaveWaiting i st d (s.setLink p l) = (leaveWaiting i st d s).setLink p l := by
  by_cases h : ∃ w, (s.entry i).state = .waiting w
  · obtain ⟨w, hw⟩ := h
    have hw' : ((s.setLink p l).entry i).state = .waiting w := hw
    have remove : removeFetch w.target i (s.setLink p l) = (removeFetch w.target i s).setLink p l := rfl
    rw [leaveWaiting_waiting hw, leaveWaiting_waiting hw', remove, lowerCount_setLink]
    split <;> rfl
  · rw [leaveWaiting_other (fun w hw => h ⟨w, hw⟩), leaveWaiting_other (s := s.setLink p l) (fun w hw => h ⟨w, hw⟩)]

theorem endWait_setLink (picks : Waiting → Bool) (st : Status) (s : State) (i : Fin Config.replyEntries) :
    endWait picks st (s.setLink p l) i = (endWait picks st s i).setLink p l := by
  unfold endWait
  rw [State.setLink_entry, leaveWaiting_setLink]
  split
  · split <;> rfl
  · rfl

/-- A fold whose steps do not look at a link gives the same before and after the link is written. -/
theorem foldl_setLink {α : Type} {f : State → α → State} (step : ∀ s x, f (s.setLink p l) x = (f s x).setLink p l)
    (xs : List α) (s : State) : xs.foldl f (s.setLink p l) = (xs.foldl f s).setLink p l := by
  induction xs generalizing s with
  | nil => rfl
  | cons x xs ih => rw [List.foldl_cons, step, ih, List.foldl_cons]

theorem leaveWaitingAll_setLink (picks : Waiting → Bool) (st : Status) (s : State) :
    leaveWaitingAll picks st (s.setLink p l) = (leaveWaitingAll picks st s).setLink p l :=
  foldl_setLink p l (endWait_setLink p l picks st) _ s

theorem losePosts_setLink (picks : EgressPacket → Bool) (g : TargetId) (s : State) :
    losePosts picks g (s.setLink p l) = (losePosts picks g s).setLink p l := by
  have lower : ∀ u pkt, lowerCountOf pkt (u.setLink p l) = (lowerCountOf pkt u).setLink p l := by
    intro u pkt
    cases pkt with
    | post r o a d => exact lowerCount_setLink p l r u
    | fetch i ep a n => rfl
  have remove : removePosts picks g (s.setLink p l) = (removePosts picks g s).setLink p l :=
    foldl_setLink p l lower _ (s.setEgress g ((s.egress g).filter fun pkt => !picks pkt))
  unfold losePosts
  rw [State.setLink_egress, remove]
  split <;> rfl

end setLink

/-- A target port's traffic at its session end: the egress queue is empty and its entries have ended PORT_DOWN (R63, R157). -/
def targetEmptied (g : TargetId) (s : State) : State :=
  leaveWaitingAll (fun w => w.target == g) .portDown ((losePosts isPost g s).setEgress g [])

/-- A target's session end does not look at its link, so that the link may be written behind the removals. -/
theorem endTargetSession_setLink (g : TargetId) (l : LinkState) (n : Nat) (s : State) :
    endTargetSession g n (s.setLink (.target g) l) =
      setFlag .targetDown (.target g) (((targetEmptied g s).setLink (.target g) l).setHeld (.target g) n) := by
  have emptied : ∀ u : State, (u.setLink (.target g) l).setEgress g [] = (u.setEgress g []).setLink (.target g) l :=
    fun _ => rfl
  unfold endTargetSession targetEmptied
  dsimp only
  rw [losePosts_setLink, emptied, leaveWaitingAll_setLink]

theorem ebbs_of_targetEmptied (g : TargetId) (s : State) : Ebbs s (targetEmptied g s) :=
  (ebbs_of_emptied g s).trans (ebbs_of_leaveWaitingAll _ _ _)

theorem targetEmptied_egress (g : TargetId) (s : State) : (targetEmptied g s).egress g = [] := by
  have h := (ends_leaveWaitingAll (fun w => w.target == g) .portDown ((losePosts isPost g s).setEgress g [])).egress g
  rw [State.setEgress_egress_self] at h
  exact List.sublist_nil.1 h

theorem targetEmptied_waiting (g : TargetId) (s : State) (i : Fin Config.replyEntries) (w : Waiting)
    (h : ((targetEmptied g s).entry i).state = .waiting w) : w.target ≠ g := by
  unfold targetEmptied at h
  rw [leaveWaitingAll_entry] at h
  simpa using (endedEntry_waiting h).2

theorem ebbs_of_endTargetSession {g : TargetId} {l : LinkState} (n : Nat) {s : State} (running : s.ctl.phase = .running)
    (down : l ≠ .up) : Ebbs s (endTargetSession g n (s.setLink (.target g) l)) := by
  have phase : (targetEmptied g s).ctl.phase = .running := by
    unfold targetEmptied
    rw [(ends_leaveWaitingAll _ _ _).ctl, State.setEgress_ctl, (ends_losePosts isPost g s).ctl, running]
  rw [endTargetSession_setLink]
  refine (ebbs_of_targetEmptied g s).trans (.trans ?_ (.trans (Quiet.held (.target g) n _).ebbs (quiet_setFlag _ _ _).ebbs))
  exact (QueueMove.targetDown g l _ phase down (targetEmptied_egress g s) (targetEmptied_waiting g s)).ebbs

theorem moves_of_endSession (p : Port) {l : LinkState} (n : Nat) {s : State} (running : s.ctl.phase = .running) (down : l ≠ .up) :
    Moves s (endSession p l n s) := by
  cases p with
  | host h => exact (QueueMove.hostDown h l n s running down).ebbs.settle s
  | target g => exact (ebbs_of_endTargetSession n running down).settle s
  | mgmt => exact (QueueMove.mgmtDown l n s running down).moves

/-! ### Symbols -/

theorem isRunning_iff (s : State) : isRunning s = true ↔ s.ctl.phase = .running := by simp [isRunning]

theorem moves_of_startArrives (p : Port) (sym : Symbol) {s : State} (running : s.ctl.phase = .running) :
    Moves s (startArrives p sym s) := by
  have answers : s.link p ≠ .up → Moves s (enterAnswering p sym s) := fun notUp =>
    (QueueMove.relink p .answering s running notUp (by decide)).moves.trans (Quiet.held p _ _).moves
  unfold startArrives
  split
  · next h => exact answers (by simp [h])
  · next h => exact answers (by simp [h])
  · exact .refl
  · exact moves_of_endSession p _ running (by decide)

theorem moves_of_stopArrives (p : Port) {s : State} (running : s.ctl.phase = .running) : Moves s (stopArrives p s) := by
  unfold stopArrives
  split
  · exact .refl
  · exact moves_of_endSession p _ running (by decide)

theorem moves_of_restartArrives (p : Port) {s : State} (running : s.ctl.phase = .running) : Moves s (restartArrives p s) := by
  unfold restartArrives
  split
  · exact .refl
  · exact moves_of_endSession p _ running (by decide)

theorem moves_of_creditArrives (p : Port) (sym : Symbol) (s : State) : Moves s (creditArrives p sym s) := by
  unfold creditArrives
  split
  · exact (quiet_setFlag _ _ _).moves
  · split
    · exact .refl
    · split
      · exact (quiet_setFlag _ _ _).moves
      · exact (Quiet.held p _ s).moves

/-! ### Packets -/

theorem moves_of_refundDiscarded (p : Port) (k : Byte) (s : State) : Moves s (refundDiscarded p k s) := by
  unfold refundDiscarded
  split
  · next h =>
    split
    · next hg => exact (QueueMove.requestBounced h s hg.2).moves
    · split
      · next hg => exact (QueueMove.orderBounced (.host h) s (.inl hg.2)).moves
      · exact .refl
  · split
    · next hg => exact (QueueMove.orderBounced .mgmt s (.inl hg.2)).moves
    · exact .refl
  · exact .refl

theorem moves_of_enterIngress {h : HostId} {s : State} (up : s.link (.host h) = .up) (r : Request) :
    Moves s (enterIngress h r s) := by
  unfold enterIngress
  split
  · exact (quiet_setFlag _ _ _).moves
  · next room => exact (QueueMove.request h r s up (by omega)).moves

theorem moves_of_enterOrders {src : Source} {s : State} (up : s.link src.port = .up) {e : OrderEntry}
    (queued : e.state = .queued) (loud : e.silent = false) : Moves s (enterOrders src e s) := by
  unfold enterOrders
  split
  · exact (quiet_setFlag _ _ _).moves
  · next notFull =>
    have room : placesUsed (s.orders src) < Config.orderPlaces src := by simpa [ordersFull] using notFull
    split
    · exact (QueueMove.orderBounced src s (.inr ⟨up, room⟩)).moves.trans (quiet_setFlag _ _ _).moves
    · exact (QueueMove.order src e s up room queued loud).moves

theorem moves_of_matchArrival (g : TargetId) (f : Frame) (s : State) : Moves s (matchArrival g f s) := by
  unfold matchArrival
  split
  · dsimp only
    refine Ebbs.settle (.trans ?_ (ebbs_of_leaveWaiting _ _ _ _)) s
    split
    · exact .refl
    · exact (quiet_setFlag _ _ _).ebbs
  · exact (quiet_setFlag _ _ _).moves

theorem moves_of_handOn {p : Port} {s : State} (up : s.link p = .up) (k : Byte) (f : Frame) : Moves s (handOn p k f s) := by
  unfold handOn
  split
  · split
    · exact moves_of_enterOrders up rfl rfl
    · exact moves_of_enterIngress up _
  · exact moves_of_enterOrders up rfl rfl
  · exact moves_of_matchArrival _ f s

theorem isUp_iff (p : Port) (s : State) : isUp p s = true ↔ s.link p = .up := by simp [isUp]

/-! ### Decisions of orders -/

theorem nextOrder_oldest {s : State} {src : Source} {e : OrderEntry} (h : nextOrder s = some (src, e)) :
    oldestQueued s src = some e := by
  unfold nextOrder at h
  obtain ⟨src', _, h'⟩ := List.exists_of_findSome?_eq_some h
  obtain ⟨e', he, hp⟩ := Option.map_eq_some_iff.1 h'
  cases hp
  exact he

/-- The decision of an order is made of moves if what it carries out is, where its checks have passed. -/
theorem moves_of_decideOrder {takes : Byte → Bool} {check : Source → OrderEntry → State → Option Status}
    {carry : Source → OrderEntry → State → State}
    (hc : ∀ src e u, oldestQueued u src = some e → check src e u = none → Moves u (carry src e u)) (s : State) :
    Moves s (decideOrder takes check carry s) := by
  unfold decideOrder
  split
  · split
    · next src e hn =>
      split
      · have placed : Moves s (s.setArbiter src) := (Quiet.arbiter src s).moves
        have served : oldestQueued s src = some e := nextOrder_oldest hn
        have oldest : oldestQueued (s.setArbiter src) src = some e := served
        dsimp only
        split
        · exact placed.trans (QueueMove.answered src e _ _ _ oldest).moves
        · next pass => exact placed.trans (hc src e _ oldest pass)
      · exact .refl
    · exact .refl
  · exact .refl

/-- An order that writes something first, leaving order queues alone, is answered. -/
theorem Moves.answered {s u : State} {src : Source} {e : OrderEntry} (h : Moves s u) (oldest : oldestQueued s src = some e)
    (same : u.eng.orders = s.eng.orders) (st : Status) (rs : List Byte) : Moves s (answerOrder src e st rs u) := by
  refine h.trans (QueueMove.answered src e st rs u ?_).moves
  unfold oldestQueued State.orders at *
  rw [same]
  exact oldest

theorem plainOrderChecks_passed {o : OrderName} {operands resources : Source → OrderEntry → State → Option Status}
    {src : Source} {e : OrderEntry} {s : State} (h : plainOrderChecks o operands resources src e s = none) :
    (o.changes = true → s.eng.frozen = false) ∧ operands src e s = none ∧ resources src e s = none := by
  unfold plainOrderChecks at h
  simp only [firstRefusal_cons_eq_none] at h
  obtain ⟨-, freeze, operands, resources, -⟩ := h
  refine ⟨fun hc => ?_, operands, resources⟩
  simpa [freezeCheck, refuseIf_eq_none, hc] using freeze

/-- What an order that names a window has found when it passes its checks (R83 to R88). -/
structure HandlePassed (o : OrderName) (owned lockable : Bool)
    (operands resources : Fin Config.slots → Window → OrderEntry → State → Option Status) (e : OrderEntry) (s : State)
    (i : Fin Config.slots) (w : Window) : Prop where
  found : resolve s e.block = .found i w
  thawed : o.changes = true → s.eng.frozen = false
  state : stateCheck o w = none
  operands : operands i w e s = none
  resources : resources i w e s = none

theorem handleOrderChecks_all {o : OrderName} {owned lockable : Bool}
    {operands resources : Fin Config.slots → Window → OrderEntry → State → Option Status} {src : Source} {e : OrderEntry}
    {s : State} (h : handleOrderChecks o owned lockable operands resources src e s = none) :
    ∃ i w, HandlePassed o owned lockable operands resources e s i w := by
  unfold handleOrderChecks at h
  simp only [firstRefusal_cons_eq_none] at h
  obtain ⟨-, freeze, -, window, -⟩ := h
  split at window
  · next i w found =>
    simp only [firstRefusal_cons_eq_none] at window
    obtain ⟨-, -, state, operands, resources, -⟩ := window
    exact ⟨i, w, found, fun hc => by simpa [freezeCheck, refuseIf_eq_none, hc] using freeze, state, operands, resources⟩
  · cases window

/-! ### Window orders -/

theorem boundsFit_iff (base limit : Addr) :
    boundsFit base limit = true ↔ base.toNat % 4096 = 0 ∧ limit.toNat % 4096 = 4095 ∧ base.toNat ≤ limit.toNat := by
  have low : ∀ a : Addr, (a.extractLsb' 0 12).toNat = a.toNat % 4096 := fun a => by simp
  have base_iff : isGranuleBase base = true ↔ base.toNat % 4096 = 0 := by
    rw [isGranuleBase, beq_iff_eq, BitVec.toNat_eq, low]
    rfl
  have limit_iff : isGranuleLimit limit = true ↔ limit.toNat % 4096 = 4095 := by
    rw [isGranuleLimit, beq_iff_eq, BitVec.toNat_eq, low]
    rfl
  unfold boundsFit
  rw [Bool.and_eq_true, Bool.and_eq_true, base_iff, limit_iff, decide_eq_true_iff, and_assoc]

theorem isGranuleBase_iff (a : Addr) : isGranuleBase a = true ↔ a.toNat % 4096 = 0 := by
  have low : (a.extractLsb' 0 12).toNat = a.toNat % 4096 := by simp
  rw [isGranuleBase, beq_iff_eq, BitVec.toNat_eq, low]
  rfl

/-- The window an OPEN asks for (R11, R89). -/
structure OpenedWindow (b : List Byte) (owner : Source) (w : Window) : Prop where
  settled : w.state = .staged ∨ w.state = .live
  chain : w.chain = []
  unlocked : w.locked = false
  owned : w.owner = owner
  bounds : boundsFit w.base w.limit = true

theorem openOperands_spec {b : List Byte} {owner : Source} {w : Window} (h : openOperands b owner = some w) :
    OpenedWindow b owner w := by
  unfold openOperands at h
  simp only [Option.bind_eq_bind, Option.bind_eq_some_iff] at h
  obtain ⟨target, _, access, _, users, _, state, hstate, hw⟩ := h
  split at hw
  · next bounds =>
    cases hw
    refine ⟨?_, rfl, rfl, rfl, bounds⟩
    have mem := List.mem_of_find?_eq_some hstate
    simpa using mem
  · cases hw

theorem OpenedWindow.fields {b : List Byte} {owner : Source} {w : Window} (h : OpenedWindow b owner w) : FieldsFit w := by
  obtain ⟨base, limit, ordered⟩ := (boundsFit_iff _ _).1 h.bounds
  have none : ∀ r, r ∉ w.chain := fun r hr => by rw [h.chain] at hr; cases hr
  exact ⟨base, limit, ordered, by rw [h.chain]; exact List.nodup_nil, fun b hb => absurd hb (none _),
    fun es he => absurd he (none _), fun t ht => absurd ht (none _)⟩

theorem moves_of_carryOpen {src : Source} {e : OrderEntry} {s : State} (oldest : oldestQueued s src = some e)
    (pass : plainOrderChecks .openWindow openOperandCheck openResourceCheck src e s = none) : Moves s (carryOpen src e s) := by
  obtain ⟨thawed, operands, -⟩ := plainOrderChecks_passed pass
  unfold carryOpen
  split
  · next w i hw hi =>
    have asked := openOperands_spec hw
    unfold openOperandCheck at operands
    rw [hw] at operands
    simp only [firstRefusal_cons_eq_none, refuseIf_eq_none] at operands
    exact ((Decision.filled i w s (thawed rfl) (lowestFreeSlot_window hi) asked.settled asked.chain asked.fields
      operands.2.1).moves).answered oldest rfl _ _
  · exact .refl

theorem window_settled {o : OrderName} {w : Window} (h : stateCheck o w = none) (hq : o ≠ .query) :
    w.state = .staged ∨ w.state = .live := by
  have drains : isDraining w.state = false := by
    cases hd : isDraining w.state with
    | false => rfl
    | true => cases o <;> first | exact absurd rfl hq | simp [stateCheck, hd] at h
  cases hs : w.state with
  | staged => exact .inl rfl
  | live => exact .inr rfl
  | drainRetire => simp [hs, isDraining] at drains
  | drainChange c => simp [hs, isDraining] at drains

theorem moves_of_carryActivate {src : Source} {e : OrderEntry} {s : State} (oldest : oldestQueued s src = some e)
    (pass : handleOrderChecks .activate true false noWindowCheck noWindowCheck src e s = none) :
    Moves s (carryActivate src e s) := by
  obtain ⟨i, w, p⟩ := handleOrderChecks_all pass
  have staged : w.state = .staged := (window_settled p.state (by decide)).resolve_right (stateCheck_activate p.state)
  unfold carryActivate
  rw [p.found]
  exact (Decision.activated i w s (p.thawed rfl) (resolve_window p.found) staged).moves.answered oldest rfl _ _

theorem moves_of_carryLock {src : Source} {e : OrderEntry} {s : State} (oldest : oldestQueued s src = some e)
    (pass : handleOrderChecks .lock true false noWindowCheck noWindowCheck src e s = none) : Moves s (carryLock src e s) := by
  obtain ⟨i, w, p⟩ := handleOrderChecks_all pass
  unfold carryLock
  rw [p.found]
  exact (Decision.locked i w s (p.thawed rfl) (resolve_window p.found) (stateCheck_lock p.state)).moves.answered oldest rfl _ _

theorem needsDrain_iff (routing : Bool) (i : Fin Config.slots) (w : Window) (s : State) :
    needsDrain routing i w s = true ↔ routing = true ∧ w.state = .live ∧ (s.slot i).count ≠ 0 := by
  simp [needsDrain, and_assoc]

theorem reserve_slot (c : PendingChange) (s : State) (i : Fin Config.slots) : (reserve c s).slot i = s.slot i := by cases c <;> rfl

theorem reserve_eng (c : PendingChange) (s : State) : (reserve c s).eng = s.eng := by cases c <;> rfl

theorem applyChange_eng (i : Fin Config.slots) (c : PendingChange) (w : Window) (s : State) : (applyChange i c w s).eng = s.eng := by
  cases c <;> rfl

/-- There is a place in the drain list where a drain is to start (R88). -/
theorem drainPlaceCheck_room {routing : Bool} {i : Fin Config.slots} {w : Window} {s : State}
    (h : drainPlaceCheck routing i w s = none) (needs : needsDrain routing i w s = true) :
    s.eng.drains.length < Config.drainPlaces := by
  simpa [drainPlaceCheck, refuseIf_eq_none, needs] using h

/-- A change that has passed its checks is applied at once or starts a drain (R13, R14). -/
theorem moves_of_makeChange {i : Fin Config.slots} {w : Window} {c : PendingChange} (m : Mode) {src : Source} {e : OrderEntry}
    {s : State} (oldest : oldestQueued s src = some e) (thawed : s.eng.frozen = false) (window : (s.slot i).window = some w)
    (settled : w.state = .staged ∨ w.state = .live) (fits : ChangeFits s i w c)
    (place : drainPlaceCheck (isRouting c) i w s = none) : Moves s (makeChange i w c m src e (reserve c s)) := by
  have needs : needsDrain (isRouting c) i w (reserve c s) = needsDrain (isRouting c) i w s := by
    unfold needsDrain
    rw [reserve_slot]
  unfold makeChange
  rw [needs]
  split
  · next hn =>
    obtain ⟨-, live, traffic⟩ := (needsDrain_iff ..).1 hn
    exact (Decision.drains i w c m src e s thawed window live traffic (drainPlaceCheck_room place hn) fits oldest).moves
  · refine (Decision.changed i w c s thawed window settled fits).moves.answered oldest ?_ _ _
    rw [applyChange_eng, reserve_eng]

/-- Where the chain has at most one record of each kind, its TRANSLATE record is the one that counts. -/
theorem mem_chain_unique {chain : List ExtRecord} (kinds : (chain.map ExtRecord.kind).Nodup) {x y : ExtRecord} (hx : x ∈ chain)
    (hy : y ∈ chain) (h : x.kind = y.kind) : x = y := List.inj_on_of_nodup_map kinds hx hy h

theorem translateBase_eq {chain : List ExtRecord} (kinds : (chain.map ExtRecord.kind).Nodup) {b : Addr}
    (h : .translate b ∈ chain) : translateBase chain = some b := by
  unfold translateBase
  cases hf : chain.findSome? fun r => match r with
    | .translate b => some b
    | _ => none with
  | none => simpa using List.findSome?_eq_none_iff.1 hf _ h
  | some b' =>
    obtain ⟨r, hr, hb⟩ := List.exists_of_findSome?_eq_some hf
    split at hb
    · next c =>
      cases hb
      cases mem_chain_unique kinds hr h rfl
      rfl
    · cases hb

theorem mirrorPort_eq {chain : List ExtRecord} (kinds : (chain.map ExtRecord.kind).Nodup) {m : TargetId}
    (h : .mirror m ∈ chain) : mirrorPort chain = some m := by
  unfold mirrorPort
  cases hf : chain.findSome? fun r => match r with
    | .mirror t => some t
    | _ => none with
  | none => simpa using List.findSome?_eq_none_iff.1 hf _ h
  | some m' =>
    obtain ⟨r, hr, hb⟩ := List.exists_of_findSome?_eq_some hf
    split at hb
    · next c =>
      cases hb
      cases mem_chain_unique kinds hr h rfl
      rfl
    · cases hb

/-- A MODIFY that is not refused BAD_OPERAND leaves a window that fits (R5, R93, R104, R108). -/
theorem fieldsFit_modify {f : ModifyFields} {w : Window} (good : modifyIsBad f w = false) (fit : FieldsFit w) :
    FieldsFit (applyModify f w) := by
  unfold modifyIsBad at good
  simp only [Bool.or_eq_false_iff, Bool.not_eq_false', Bool.and_eq_false_iff] at good
  obtain ⟨⟨⟨-, bounds⟩, target⟩, range⟩ := good
  obtain ⟨base, limit, ordered⟩ := (boundsFit_iff _ _).1 bounds
  refine ⟨base, limit, ordered, fit.kinds, fun b hb => ?_, fit.guard, fun t ht => ?_⟩
  · refine ⟨(fit.translate b hb).1, ?_⟩
    have chain : translateBase w.chain = some b := translateBase_eq fit.kinds hb
    rcases range with still | moved
    · have sameBase : f.base = none := by
        unfold ModifyFields.movesRange at still
        cases hf : f.base <;> simp_all
      have sameLimit : f.limit = none := by
        unfold ModifyFields.movesRange at still
        cases hf : f.limit <;> simp_all
      simpa [applyModify, sameBase, sameLimit] using (fit.translate b hb).2
    · rw [chain] at moved
      simp only [Bool.not_eq_eq_eq_not, Bool.not_false, translationFits, modifiedSpan] at moved
      exact of_decide_eq_true moved
  · have chain : mirrorPort w.chain = some t := mirrorPort_eq fit.kinds ht
    have own := fit.mirror t ht
    rw [chain] at target
    cases hf : f.target with
    | none => simpa [applyModify, hf] using own
    | some g =>
      have ne : g ≠ t := by simpa [hf] using target
      simpa [applyModify, hf] using ne.symm

theorem kind_not_mem {chain : List ExtRecord} {k : ExtKind} (h : chainHolds chain k = false) : k ∉ chain.map ExtRecord.kind := by
  intro hm
  obtain ⟨r, hr, hk⟩ := List.mem_map.1 hm
  simp only [chainHolds, List.any_eq_false, beq_iff_eq] at h
  exact h r hr hk

theorem distinctHosts_nodup {es : List (HostId × Permission)} (h : distinctHosts es = true) : (es.map Prod.fst).Nodup := by
  induction es with
  | nil => exact List.nodup_nil
  | cons e es ih =>
    rw [distinctHosts, Bool.and_eq_true] at h
    refine List.nodup_cons.2 ⟨?_, ih h.2⟩
    intro hm
    obtain ⟨x, hx, hxe⟩ := List.mem_map.1 hm
    simp only [Bool.not_eq_true', List.any_eq_false, beq_iff_eq] at h
    exact h.1 x hx hxe

theorem length_of_mapM {α β : Type} {f : α → Option β} {l : List α} {r : List β} (h : l.mapM f = some r) :
    r.length = l.length := by
  induction l generalizing r with
  | nil => cases h; rfl
  | cons x l ih =>
    rw [List.mapM_cons] at h
    simp only [Option.bind_eq_bind, Option.bind_eq_some_iff, Option.pure_def, Option.some.injEq] at h
    obtain ⟨y, -, ys, hys, rfl⟩ := h
    rw [List.length_cons, List.length_cons, ih hys]

theorem guardOperands_spec {b : List Byte} {es : List (HostId × Permission)} (h : guardOperands b = some es) :
    1 ≤ es.length ∧ es.length ≤ 4 ∧ (es.map Prod.fst).Nodup := by
  unfold guardOperands at h
  dsimp only at h
  split at h
  · next hn =>
    split at h
    · next l hl =>
      split at h
      · next hd =>
        cases h
        have len := length_of_mapM hl
        rw [List.length_range] at len
        exact ⟨by omega, by omega, distinctHosts_nodup hd⟩
      · cases h
    · cases h
  · cases h

/-- A record that an ATTACH has passed its operand check with leaves a window that fits (R104, R106, R108, R111). -/
theorem fieldsFit_attach {b : List Byte} {w : Window} {r : ExtRecord} (h : attachOperands b w = some r)
    (new : r.kind ∉ w.chain.map ExtRecord.kind) (fit : FieldsFit w) : FieldsFit { w with chain := w.chain ++ [r] } := by
  have kinds : ((w.chain ++ [r]).map ExtRecord.kind).Nodup := by
    rw [List.map_append, List.nodup_append]
    refine ⟨fit.kinds, List.nodup_singleton _, fun x hx y hy => ?_⟩
    rw [List.map_singleton, List.mem_singleton] at hy
    rintro rfl
    exact new (hy ▸ hx)
  refine ⟨fit.base_granule, fit.limit_granule, fit.ordered, kinds, fun c hc => ?_, fun es he => ?_, fun t ht => ?_⟩
  · rcases List.mem_append.1 hc with old | added
    · exact fit.translate c old
    · cases List.mem_singleton.1 added
      unfold attachOperands at h
      split at h
      · split at h
        · next ok =>
          rw [Bool.and_eq_true] at ok
          cases h
          exact ⟨(isGranuleBase_iff _).1 ok.1, by simpa [translationFits] using ok.2⟩
        · cases h
      · simp at h
      · split at h
        · split at h <;> cases h
        · cases h
      · cases h
  · rcases List.mem_append.1 he with old | added
    · exact fit.guard es old
    · cases List.mem_singleton.1 added
      unfold attachOperands at h
      split at h
      · split at h <;> cases h
      · obtain ⟨es', hes, hr⟩ := Option.map_eq_some_iff.1 h
        cases hr
        exact guardOperands_spec hes
      · split at h
        · split at h <;> cases h
        · cases h
      · cases h
  · rcases List.mem_append.1 ht with old | added
    · exact fit.mirror t old
    · cases List.mem_singleton.1 added
      unfold attachOperands at h
      split at h
      · split at h <;> cases h
      · simp at h
      · split at h
        · split at h
          · cases h
          · next ne =>
            cases h
            exact ne
        · cases h
      · cases h

theorem fieldsFit_detach (k : ExtKind) {w : Window} (fit : FieldsFit w) : FieldsFit { w with chain := dropKind k w.chain } := by
  have sub : (dropKind k w.chain).Sublist w.chain := List.filter_sublist
  exact ⟨fit.base_granule, fit.limit_granule, fit.ordered, fit.kinds.sublist (sub.map _),
    fun b hb => fit.translate b (sub.subset hb), fun es he => fit.guard es (sub.subset he),
    fun t ht => fit.mirror t (sub.subset ht)⟩

theorem changeFits_modify {i : Fin Config.slots} {w : Window} {e : OrderEntry} {s : State} {f : ModifyFields}
    (hf : modifyOperands e.block = some f) (pass : modifyOperandCheck i w e s = none) : ChangeFits s i w (.modify f) := by
  unfold modifyOperandCheck at pass
  rw [hf] at pass
  split at pass
  · next f' m hf' hm =>
    cases hf'
    split at pass
    · cases pass
    · next good =>
      refine ⟨fieldsFit_modify (by simpa using good), fun f' hf' moves => ?_, fun r hr => by cases hr⟩
      cases hf'
      rw [if_pos moves] at pass
      simp only [firstRefusal_cons_eq_none, refuseIf_eq_none] at pass
      exact pass.2.1
  · cases pass

theorem changeFits_attach {i : Fin Config.slots} {w : Window} {e : OrderEntry} {s : State} {r : ExtRecord}
    (hr : attachOperands e.block w = some r) (operands : attachOperandCheck i w e s = none)
    (resources : attachResourceCheck i w e s = none) : ChangeFits s i w (.attach r) := by
  unfold attachOperandCheck at operands
  unfold attachResourceCheck at resources
  rw [hr] at operands resources
  simp only [firstRefusal_cons_eq_none, refuseIf_eq_none, beq_eq_false_iff_ne] at resources
  split at operands
  · next r' m hr' hm =>
    cases hr'
    exact ⟨fieldsFit_attach hr (kind_not_mem ((refuseIf_eq_none ..).1 operands)), fun f hf => (by cases hf),
      fun _ _ => resources.1⟩
  · cases operands

theorem changeFits_detach {i : Fin Config.slots} {w : Window} {s : State} (k : ExtKind) : ChangeFits s i w (.detach k) :=
  ⟨fieldsFit_detach k, fun f hf => (by cases hf), fun r hr => (by cases hr)⟩

theorem freeSlot_eng (i : Fin Config.slots) (s : State) : (freeSlot i s).eng = s.eng := by
  unfold freeSlot
  split <;> rfl

section windowOrders

variable {src : Source} {e : OrderEntry} {s : State} (oldest : oldestQueued s src = some e)

include oldest

theorem moves_of_carryModify (pass : handleOrderChecks .modify true true modifyOperandCheck modifyResourceCheck src e s = none) :
    Moves s (carryModify src e s) := by
  obtain ⟨i, w, p⟩ := handleOrderChecks_all pass
  have resources := p.resources
  unfold carryModify
  rw [p.found]
  split
  · next hfound hf hm =>
    cases hfound
    unfold modifyResourceCheck at resources
    rw [hf] at resources
    exact moves_of_makeChange _ oldest (p.thawed rfl) (resolve_window p.found) (window_settled p.state (by decide))
      (changeFits_modify hf p.operands) resources
  · exact .refl

theorem moves_of_carryAttach (pass : handleOrderChecks .attach true true attachOperandCheck attachResourceCheck src e s = none) :
    Moves s (carryAttach src e s) := by
  obtain ⟨i, w, p⟩ := handleOrderChecks_all pass
  have resources := p.resources
  unfold carryAttach
  rw [p.found]
  dsimp only
  split
  · next r m hr hm =>
    have fits := changeFits_attach hr p.operands resources
    unfold attachResourceCheck at resources
    rw [hr] at resources
    simp only [firstRefusal_cons_eq_none] at resources
    exact moves_of_makeChange (c := .attach r) m oldest (p.thawed rfl) (resolve_window p.found)
      (window_settled p.state (by decide)) fits resources.2.1
  · exact .refl

theorem moves_of_carryDetach (pass : handleOrderChecks .detach true true detachOperandCheck detachResourceCheck src e s = none) :
    Moves s (carryDetach src e s) := by
  obtain ⟨i, w, p⟩ := handleOrderChecks_all pass
  have resources := p.resources
  unfold carryDetach
  rw [p.found]
  split
  · next hfound hk hm =>
    cases hfound
    unfold detachResourceCheck at resources
    rw [hk] at resources
    exact moves_of_makeChange (c := .detach _) _ oldest (p.thawed rfl) (resolve_window p.found)
      (window_settled p.state (by decide)) (changeFits_detach _) resources
  · exact .refl

theorem moves_of_carryRetire (pass : handleOrderChecks .retire true true retireOperandCheck retireResourceCheck src e s = none) :
    Moves s (carryRetire src e s) := by
  obtain ⟨i, w, p⟩ := handleOrderChecks_all pass
  have window := resolve_window p.found
  have settled := window_settled p.state (by decide)
  unfold carryRetire
  rw [p.found]
  split
  · next hfound hm =>
    cases hfound
    split
    · next hn =>
      obtain ⟨-, live, traffic⟩ := (needsDrain_iff ..).1 hn
      exact (Decision.retires i w _ src e s (p.thawed rfl) window live traffic (drainPlaceCheck_room p.resources hn) oldest).moves
    · next hn =>
      have idle : w.state = .staged ∨ w.state = .live ∧ (s.slot i).count = 0 := by
        refine settled.imp_right fun live => ⟨live, ?_⟩
        by_contra traffic
        exact hn ((needsDrain_iff ..).2 ⟨rfl, live, traffic⟩)
      exact (Decision.freed i w s (p.thawed rfl) window idle).moves.answered oldest (congrArg Engine.orders (freeSlot_eng i s)) _ _
  · exact .refl

end windowOrders

end Sys2Proof.Machine
end

section
/-! SUPPORT. The event of every command, as moves and the notices that follow them. -/

namespace Sys2Proof.Machine

/-! ### Orders that write no window -/

section plainOrders

variable {src : Source} {e : OrderEntry} {s : State} (oldest : oldestQueued s src = some e)

include oldest

theorem moves_of_carryQuery : Moves s (carryQuery src e s) := by
  unfold carryQuery
  split
  · exact (QueueMove.answered src e _ _ s oldest).moves
  · exact .refl

theorem moves_of_carrySetFallback (thawed : s.eng.frozen = false) : Moves s (carrySetFallback src e s) := by
  unfold carrySetFallback
  split
  · next f _ => exact (Decision.fallback f s thawed).moves.answered oldest rfl _ _
  · exact .refl

theorem moves_of_carrySetRights (thawed : s.eng.frozen = false) : Moves s (carrySetRights src e s) := by
  unfold carrySetRights
  split
  · exact (Decision.rights _ _ _ s thawed).moves.answered oldest rfl _ _
  · exact .refl

theorem moves_of_carryBarring (b : Bool) : Moves s (carryBarring b src e s) := by
  unfold carryBarring
  split
  · next p _ => exact (Quiet.barred p b s).moves.answered oldest (by cases p <;> rfl) _ _
  · exact .refl

theorem moves_of_carrySetNotify : Moves s (carrySetNotify src e s) := by
  unfold carrySetNotify
  split
  · exact (Quiet.setting _ s).moves.answered oldest rfl _ _
  · exact .refl

theorem moves_of_carrySetTimers : Moves s (carrySetTimers src e s) := by
  unfold carrySetTimers
  split
  · next r d _ => exact (Quiet.limits r d s).moves.answered oldest rfl _ _
  · exact .refl

end plainOrders

/-! ### The path reset -/

theorem find?_eraseP {α : Type} {p q : α → Bool} (apart : ∀ x, p x = true → q x = false) (l : List α) :
    (l.eraseP p).find? q = l.find? q := by
  induction l with
  | nil => rfl
  | cons x l ih =>
    cases hp : p x with
    | true => rw [List.eraseP_cons_of_pos hp, List.find?_cons_of_neg (by simp [apart x hp])]
    | false =>
      rw [List.eraseP_cons_of_neg (by simp [hp]), List.find?_cons, List.find?_cons, ih]

theorem find?_updateFirst {α : Type} {p q : α → Bool} {f : α → α} (apart : ∀ x, p x = true → q x = false)
    (new : ∀ x, p x = true → q (f x) = false) (l : List α) : (updateFirst p f l).find? q = l.find? q := by
  induction l with
  | nil => rfl
  | cons x l ih =>
    unfold updateFirst
    split
    · next hp => rw [List.find?_cons_of_neg (by simp [new x hp]), List.find?_cons_of_neg (by simp [apart x hp])]
    · rw [List.find?_cons, List.find?_cons, ih]

theorem isTakenFor_iff (i : Fin Config.slots) (e : OrderEntry) : isTakenFor i e = true ↔ e.state = .taken i := by
  simp [isTakenFor]

theorem isQueued_iff (e : OrderEntry) : isQueued e = true ↔ e.state = .queued := by simp [isQueued]

theorem isQueued_of_taken {i : Fin Config.slots} {e : OrderEntry} (h : isTakenFor i e = true) : isQueued e = false := by
  simp [isQueued, (isTakenFor_iff i e).1 h]

/-- The end of a drain touches no QUEUED entry (R79). -/
theorem oldestQueued_closeOrder (src k : Source) (i : Fin Config.slots) (st : Status) (s : State) :
    oldestQueued (closeOrder src i st s) k = oldestQueued s k := by
  have taken : ∀ e, isTakenFor i e = true → isQueued e = false := fun _ => isQueued_of_taken
  unfold closeOrder oldestQueued
  split
  · split
    · rw [State.setOrders_orders]
      split
      · next hk => rw [hk, find?_eraseP taken]
      · rfl
    · unfold pushReturn
      rw [State.setReturns_orders, State.setOrders_orders]
      split
      · next hk => rw [hk, find?_updateFirst taken (fun _ _ => rfl)]
      · rfl
  · rfl

theorem oldestQueued_completeJob (j : DrainJob) (k : Source) (s : State) :
    oldestQueued (completeJob j s) k = oldestQueued s k := by
  unfold completeJob
  rw [oldestQueued_closeOrder]
  unfold oldestQueued removeJob
  rw [State.setDrains_orders]
  unfold State.orders
  rw [carryOutPurpose_eng]

theorem oldestQueued_completeDrains (k : Source) (s : State) : oldestQueued (completeDrains s) k = oldestQueued s k := by
  refine foldl_rel (R := fun u v => oldestQueued v k = oldestQueued u k) (fun _ => rfl) (fun _ _ _ a b => b.trans a) _
    (fun u j => ?_) _ s
  split
  · exact oldestQueued_completeJob j k u
  · rfl

theorem oldestQueued_congr {s t : State} (h : t.eng.orders = s.eng.orders) (k : Source) : oldestQueued t k = oldestQueued s k := by
  unfold oldestQueued State.orders
  rw [h]

theorem flushIngress_eng (h : HostId) (s : State) : (flushIngress h s).eng = s.eng := by
  unfold flushIngress returnRequestCredits
  split <;> rfl

theorem flushEgress_eng (g : TargetId) (s : State) : (flushEgress g s).eng = s.eng := by
  unfold flushEgress
  rw [State.setEgress_eng, (ends_losePosts isPost g s).eng]

/-- The part when a path reset has emptied its queues and ended its waits, before its drains complete (R51, R64, R159). -/
def pathsEmptied (s : State) : State :=
  TargetId.all.foldl (fun s g => flushEgress g s)
    (leaveWaitingAll (fun _ => true) .aborted (HostId.all.foldl (fun s h => flushIngress h s) s))

theorem pathReset_eq (s : State) :
    pathReset s = addPathCause (setPlainFlag .resetSeen (completeDrains (pathsEmptied s))) := rfl

theorem ebbs_of_pathsEmptied (s : State) : Ebbs s (pathsEmptied s) := by
  have hosts : Ebbs s (HostId.all.foldl (fun s h => flushIngress h s) s) :=
    foldl_rel (R := Ebbs) (fun _ => .refl) (fun _ _ _ => .trans) _ (fun u h => (QueueMove.flushed h u).ebbs) _ _
  exact (hosts.trans (ebbs_of_leaveWaitingAll _ _ _)).trans
    (foldl_rel (R := Ebbs) (fun _ => .refl) (fun _ _ _ => .trans) _ (fun u g => ebbs_of_flushEgress g u) _ _)

theorem pathsEmptied_eng (s : State) : (pathsEmptied s).eng = s.eng := by
  have same : ∀ {α : Type} (f : State → α → State) (_ : ∀ u x, (f u x).eng = u.eng) (l : List α) (u : State),
      (l.foldl f u).eng = u.eng := fun f step l u =>
    foldl_rel (R := fun a b : State => b.eng = a.eng) (fun _ => rfl) (fun _ _ _ h h' => Eq.trans h' h) f step l u
  unfold pathsEmptied
  rw [same _ (fun u g => flushEgress_eng g u), (ends_leaveWaitingAll _ _ _).eng, same _ (fun u h => flushIngress_eng h u)]

theorem moves_of_pathReset (s : State) : Moves s (pathReset s) := by
  rw [pathReset_eq]
  exact ((ebbs_of_pathsEmptied s).complete.trans (quiet_setPlainFlag _ _).moves).trans (Quiet.pathCause _).moves

theorem moves_of_carryResetPaths {src : Source} {e : OrderEntry} {s : State} (oldest : oldestQueued s src = some e) :
    Moves s (carryResetPaths src e s) := by
  have still : oldestQueued (pathReset s) src = some e := by
    have marked : ∀ u, oldestQueued (addPathCause (setPlainFlag .resetSeen u)) src = oldestQueued u src := fun _ => rfl
    rw [pathReset_eq, marked, oldestQueued_completeDrains, oldestQueued_congr (congrArg Engine.orders (pathsEmptied_eng s)), oldest]
  unfold carryResetPaths
  exact (moves_of_pathReset s).trans (QueueMove.answered src e _ _ _ still).moves

/-! ### Events without notices -/

/-- No flag that is both pending and enabled after was not both before, so that no occasion has come (R179). -/
def FlagsFall (s t : State) : Prop := activeFlags t.events &&& ~~~activeFlags s.events = 0

theorem FlagsFall.same {s t : State} (h : t.events = s.events) : FlagsFall s t := by
  unfold FlagsFall
  rw [h]
  ext i hi
  simp

theorem FlagsFall.of_left {s u t : State} (e : u.events = s.events) (h : FlagsFall u t) : FlagsFall s t := by
  unfold FlagsFall at *
  rw [← e]
  exact h

theorem FlagsFall.decideOrder {takes : Byte → Bool} {check : Source → OrderEntry → State → Option Status}
    {carry : Source → OrderEntry → State → State} (hc : ∀ src e u, FlagsFall u (carry src e u)) (s : State) :
    FlagsFall s (decideOrder takes check carry s) := by
  unfold Machine.decideOrder
  split
  · split
    · next src e _ =>
      split
      · dsimp only
        split
        · exact .same rfl
        · exact .of_left rfl (hc src e (s.setArbiter src))
      · exact .same rfl
    · exact .same rfl
  · exact .same rfl

theorem makeChange_events (i : Fin Config.slots) (w : Window) (c : PendingChange) (m : Mode) (src : Source) (e : OrderEntry)
    (s : State) : (makeChange i w c m src e s).events = s.events := by
  unfold makeChange
  split
  · rfl
  · cases c <;> rfl

theorem freeSlot_events (i : Fin Config.slots) (s : State) : (freeSlot i s).events = s.events := by
  unfold freeSlot
  split <;> rfl

theorem fall_carryQuery (src : Source) (e : OrderEntry) (s : State) : FlagsFall s (carryQuery src e s) := by
  refine .same ?_
  unfold carryQuery
  split <;> rfl

theorem fall_carryOpen (src : Source) (e : OrderEntry) (s : State) : FlagsFall s (carryOpen src e s) := by
  refine .same ?_
  unfold carryOpen
  split <;> rfl

theorem fall_carryActivate (src : Source) (e : OrderEntry) (s : State) : FlagsFall s (carryActivate src e s) := by
  refine .same ?_
  unfold carryActivate
  split <;> rfl

theorem fall_carryLock (src : Source) (e : OrderEntry) (s : State) : FlagsFall s (carryLock src e s) := by
  refine .same ?_
  unfold carryLock
  split <;> rfl

theorem fall_carryModify (src : Source) (e : OrderEntry) (s : State) : FlagsFall s (carryModify src e s) := by
  refine .same ?_
  unfold carryModify
  split
  · exact makeChange_events ..
  · rfl

theorem fall_carryRetire (src : Source) (e : OrderEntry) (s : State) : FlagsFall s (carryRetire src e s) := by
  refine .same ?_
  unfold carryRetire
  split
  · split
    · rfl
    · exact freeSlot_events ..
  · rfl

theorem fall_carryAttach (src : Source) (e : OrderEntry) (s : State) : FlagsFall s (carryAttach src e s) := by
  refine .same ?_
  unfold carryAttach
  split
  · split
    · exact makeChange_events ..
    · rfl
  · rfl

theorem fall_carryDetach (src : Source) (e : OrderEntry) (s : State) : FlagsFall s (carryDetach src e s) := by
  refine .same ?_
  unfold carryDetach
  split
  · exact makeChange_events ..
  · rfl

theorem fall_carrySetFallback (src : Source) (e : OrderEntry) (s : State) : FlagsFall s (carrySetFallback src e s) := by
  refine .same ?_
  unfold carrySetFallback
  split <;> rfl

theorem fall_carrySetRights (src : Source) (e : OrderEntry) (s : State) : FlagsFall s (carrySetRights src e s) := by
  refine .same ?_
  unfold carrySetRights
  split <;> rfl

theorem fall_carryBarring (b : Bool) (src : Source) (e : OrderEntry) (s : State) : FlagsFall s (carryBarring b src e s) := by
  refine .same ?_
  unfold carryBarring
  split
  · next p _ => cases p <;> rfl
  · rfl

/-- CLEAR_EVENTS clears pending marks and sets none (R186). -/
theorem fall_carryClearEvents (src : Source) (e : OrderEntry) (s : State) : FlagsFall s (carryClearEvents src e s) := by
  have events : (carryClearEvents src e s).events = clearFlags (flagSetOf e.block) s.events := rfl
  unfold FlagsFall
  rw [events]
  simp only [activeFlags, clearFlags, driveNote]
  ext i hi
  simp only [BitVec.getElem_and, BitVec.getElem_not]
  cases s.events.pending[i] <;> cases s.events.enabled[i] <;> simp

/-- A new setting moves no flag (R188). -/
theorem fall_carrySetNotify (src : Source) (e : OrderEntry) (s : State) : FlagsFall s (carrySetNotify src e s) := by
  unfold carrySetNotify
  split
  · next n _ =>
    have same : FlagsFall s s := .same rfl
    exact same
  · exact .same rfl

theorem fall_carrySetTimers (src : Source) (e : OrderEntry) (s : State) : FlagsFall s (carrySetTimers src e s) := by
  refine .same ?_
  unfold carrySetTimers
  split <;> rfl

/-! ### Every command -/

/-- What the event of a command other than a reset comes to: moves alone, at no occasion; moves and the end of the event; or one
of the two events at which a port acts on an owed mark (R179, R182, R184). -/
inductive Event (s : State) : State → Prop
  | plain {t : State} (moves : Moves s t) (fall : FlagsFall s t) : Event s t
  | noticed {u : State} (moves : Moves s u) : Event s (notify s none u)
  | opened (p : Port) (running : s.ctl.phase = .running) (answering : s.link p = .answering) :
      Event s (notify s (some p) (startSent p s))
  | sent (src : Source) (pkt : ReturnPacket) (rest : List ReturnPacket) (queue : s.returns src = pkt :: rest)
      (up : s.link src.port = .up) : Event s (notify s (promptOf src pkt) (offerFreed s (sendHead src pkt s)))

theorem Event.idle (s : State) : Event s s := .plain .refl (.same rfl)

theorem event_packetArrives (p : Port) (k : Byte) (f : Frame) (s : State) : Event s (packetArrives p k f s) := by
  unfold packetArrives
  split
  · refine .noticed ?_
    split
    · exact (quiet_setFlag _ _ _).moves
    · next hup =>
      have up : s.link p = .up := (isUp_iff p s).1 (by simpa using hup)
      split
      · exact moves_of_handOn up k f
      · exact (quiet_setFlag .protocol p s).moves.trans (moves_of_refundDiscarded p k _)
  · exact .idle s

theorem event_screenSymbol {p : Port} {code : Byte} {sym : Symbol} {act : State → State} {s : State}
    (ha : s.ctl.phase = .running → Moves s (act s)) : Event s (screenSymbol p code sym act s) := by
  unfold screenSymbol
  split
  · next hr =>
    refine .noticed ?_
    split
    · exact ha ((isRunning_iff s).1 hr)
    · exact (quiet_setFlag _ _ _).moves
  · exact .idle s

theorem event_symbolArrives (p : Port) (bytes : List Byte) (s : State) : Event s (symbolArrives p bytes s) := by
  unfold symbolArrives
  split
  · refine event_screenSymbol fun hr => ?_
    split
    · exact moves_of_startArrives p _ hr
    · split
      · exact moves_of_stopArrives p hr
      · split
        · exact moves_of_restartArrives p hr
        · split
          · exact moves_of_creditArrives p _ s
          · exact (quiet_setFlag _ _ _).moves
  · split
    · exact .noticed (quiet_setFlag _ _ _).moves
    · exact .idle s

/-- The event of a command that answers a next state. -/
def AnswerIsEvent (s : State) (a : Answer) : Prop := ∀ t, a = .next t → Event s t

theorem Event.next {s u : State} (h : Event s u) : AnswerIsEvent s (.next u) := by
  rintro t ⟨⟩
  exact h

theorem event_plainOrder {takes : Byte → Bool} {check : Source → OrderEntry → State → Option Status}
    {carry : Source → OrderEntry → State → State}
    (hc : ∀ src e u, oldestQueued u src = some e → check src e u = none → Moves u (carry src e u))
    (hf : ∀ src e u, FlagsFall u (carry src e u)) (s : State) : AnswerIsEvent s (.next (decideOrder takes check carry s)) :=
  (Event.plain (moves_of_decideOrder hc s) (.decideOrder hf s)).next

theorem event_delivery (g : TargetId) (s : State) : AnswerIsEvent s (execDelivery g s) := by
  unfold execDelivery
  split
  · exact (Event.idle s).next
  · next pkt rest hq =>
    split
    · exact (Event.noticed ((Ebb.delivered g pkt rest s hq).ebbs.settle s)).next
    · exact (Event.idle s).next

theorem event_returnQueueSending (src : Source) (s : State) : AnswerIsEvent s (execReturnQueueSending src s) := by
  unfold execReturnQueueSending
  split
  · exact (Event.idle s).next
  · next pkt rest hq =>
    split
    · next h => exact (Event.sent src pkt rest hq ((isUp_iff _ s).1 h.2.1)).next
    · exact (Event.idle s).next

theorem event_replyTimerExpiry (i : Fin Config.replyEntries) (s : State) : AnswerIsEvent s (execReplyTimerExpiry i s) := by
  unfold execReplyTimerExpiry
  split
  · next w _ =>
    split
    · have left : Ebbs s (leaveWaiting i .timeout [] (setFlag .replyTimeout (.target w.target) s)) :=
        (quiet_setFlag _ _ s).ebbs.trans (ebbs_of_leaveWaiting i .timeout [] _)
      exact (Event.noticed (left.settle s)).next
    · exact (Event.idle s).next
  · exact (Event.idle s).next

theorem event_drainTimerExpiry (i : Fin Config.slots) (s : State) : AnswerIsEvent s (execDrainTimerExpiry i s) := by
  unfold execDrainTimerExpiry
  split
  · split
    · next j hj =>
      split
      · rw [abandonDrain_eq]
        exact (Event.noticed ((Decision.abandoned j s (List.mem_of_find?_eq_some hj)).moves.trans
          (quiet_setPlainFlag .drainExpired _).moves)).next
      · exact (Event.noticed ((moves_of_forceDrain j s).trans (moves_of_offerFreed s _))).next
    · exact (Event.idle s).next
  · exact (Event.idle s).next

theorem event_resetNRelease (s : State) : AnswerIsEvent s (execResetNRelease s) := by
  unfold execResetNRelease
  split
  · next h => exact (Event.plain (Quiet.release s h).moves (.same rfl)).next
  · exact (Event.idle s).next

theorem event_startUpEnd (s : State) : AnswerIsEvent s (execStartUpEnd s) := by
  unfold execStartUpEnd
  split
  · next h => exact (Event.plain (Quiet.enablePorts s h).moves (.same rfl)).next
  · exact (Event.idle s).next

theorem event_partStartSent (p : Port) (s : State) : AnswerIsEvent s (execPartStartSent p s) := by
  unfold execPartStartSent
  split
  · next h => exact (Event.opened p ((isRunning_iff s).1 h.1) h.2).next
  · exact (Event.idle s).next

theorem event_lossOfSignal (p : Port) (s : State) : AnswerIsEvent s (execLossOfSignal p s) := by
  unfold execLossOfSignal
  split
  · next h => exact (Event.noticed (moves_of_stopArrives p ((isRunning_iff s).1 h))).next
  · exact (Event.idle s).next

theorem event_forwardAttempt (h : HostId) (s : State) : AnswerIsEvent s (execForwardAttempt h s) := by
  unfold execForwardAttempt
  split
  · exact (Event.noticed (moves_of_attempt h none s)).next
  · exact (Event.idle s).next

theorem event_unknownOrder (s : State) : AnswerIsEvent s (execUnknownOrder s) :=
  event_plainOrder (fun _ _ _ _ pass => absurd pass (by simp)) (fun _ _ _ => .same rfl) s

/-- Every command other than the two resets has an event made of moves. -/
theorem exec_event {c : Instr} (hc : ¬Resets c) (s : State) : AnswerIsEvent s (exec c s) := by
  have answered : ∀ {src e u} (st : Status) (rs : List Byte), oldestQueued u src = some e → Moves u (answerOrder src e st rs u) :=
    fun st rs oldest => (QueueMove.answered _ _ st rs _ oldest).moves
  cases c with
  | powerOn high => exact absurd (.inr ⟨high, rfl⟩) hc
  | pinReset => exact absurd (.inl rfl) hc
  | resetNRelease => exact event_resetNRelease s
  | startUpEnd => exact event_startUpEnd s
  | start p sym => exact (event_screenSymbol (moves_of_startArrives p sym)).next
  | partStartSent p => exact event_partStartSent p s
  | stop p sym => exact (event_screenSymbol (moves_of_stopArrives p)).next
  | restart p sym => exact (event_screenSymbol (moves_of_restartArrives p)).next
  | credit p sym => exact (event_screenSymbol fun _ => moves_of_creditArrives p sym s).next
  | lossOfSignal p => exact event_lossOfSignal p s
  | post h f => exact (event_packetArrives _ _ f s).next
  | fetch h f => exact (event_packetArrives _ _ f s).next
  | order src f => exact (event_packetArrives _ _ f s).next
  | reply g f => exact (event_packetArrives _ _ f s).next
  | misdirectedPacket p k f => exact (event_packetArrives p k f s).next
  | forwardAttempt h => exact event_forwardAttempt h s
  | delivery g => exact event_delivery g s
  | returnQueueSending src => exact event_returnQueueSending src s
  | replyTimerExpiry i => exact event_replyTimerExpiry i s
  | drainTimerExpiry i => exact event_drainTimerExpiry i s
  | query => exact event_plainOrder (fun _ _ _ oldest _ => moves_of_carryQuery oldest) fall_carryQuery s
  | find => exact event_plainOrder (fun _ _ _ oldest _ => answered _ _ oldest) (fun _ _ _ => .same rfl) s
  | list => exact event_plainOrder (fun _ _ _ oldest _ => answered _ _ oldest) (fun _ _ _ => .same rfl) s
  | readStatus => exact event_plainOrder (fun _ _ _ oldest _ => answered _ _ oldest) (fun _ _ _ => .same rfl) s
  | openWindow => exact event_plainOrder (fun _ _ _ => moves_of_carryOpen) fall_carryOpen s
  | activate => exact event_plainOrder (fun _ _ _ => moves_of_carryActivate) fall_carryActivate s
  | modify => exact event_plainOrder (fun _ _ _ => moves_of_carryModify) fall_carryModify s
  | retire => exact event_plainOrder (fun _ _ _ => moves_of_carryRetire) fall_carryRetire s
  | lock => exact event_plainOrder (fun _ _ _ => moves_of_carryLock) fall_carryLock s
  | attach => exact event_plainOrder (fun _ _ _ => moves_of_carryAttach) fall_carryAttach s
  | detach => exact event_plainOrder (fun _ _ _ => moves_of_carryDetach) fall_carryDetach s
  | setFallback =>
    exact event_plainOrder
      (fun _ _ _ oldest pass => moves_of_carrySetFallback oldest ((plainOrderChecks_passed pass).1 rfl)) fall_carrySetFallback s
  | setRights =>
    exact event_plainOrder
      (fun _ _ _ oldest pass => moves_of_carrySetRights oldest ((plainOrderChecks_passed pass).1 rfl)) fall_carrySetRights s
  | freeze =>
    exact event_plainOrder (fun _ _ u oldest _ => (Quiet.freeze u).moves.answered oldest rfl _ _) (fun _ _ _ => .same rfl) s
  | barPort => exact event_plainOrder (fun _ _ _ oldest _ => moves_of_carryBarring oldest true) (fall_carryBarring true) s
  | enablePort => exact event_plainOrder (fun _ _ _ oldest _ => moves_of_carryBarring oldest false) (fall_carryBarring false) s
  | readEvents => exact event_plainOrder (fun _ _ _ oldest _ => answered _ _ oldest) (fun _ _ _ => .same rfl) s
  | clearEvents =>
    exact event_plainOrder (fun _ _ u oldest _ => (Quiet.clear _ u).moves.answered oldest rfl _ _) fall_carryClearEvents s
  | setEventEnables =>
    exact (Event.noticed
      (moves_of_decideOrder (fun _ _ u oldest _ => (Quiet.enable _ u).moves.answered oldest rfl _ _) s)).next
  | setNotify => exact event_plainOrder (fun _ _ _ oldest _ => moves_of_carrySetNotify oldest) fall_carrySetNotify s
  | setTimers => exact event_plainOrder (fun _ _ _ oldest _ => moves_of_carrySetTimers oldest) fall_carrySetTimers s
  | resetPaths => exact (Event.noticed (moves_of_decideOrder (fun _ _ _ oldest _ => moves_of_carryResetPaths oldest) s)).next
  | clearResetCause =>
    exact event_plainOrder (fun _ _ u oldest _ => (Quiet.emptyCause u).moves.answered oldest rfl _ _) (fun _ _ _ => .same rfl) s
  | unknownOrder => exact event_unknownOrder s
  | lossOfSupply =>
    have same : FlagsFall s s := .same rfl
    exact (Event.plain (Quiet.unpowered s).moves same).next
  | malformedSymbol p bytes => exact (event_symbolArrives p bytes s).next

/-- A reset puts every block at its power-on value, or, where it is part of a reset that holds, changes nothing (log 8). -/
theorem exec_resets {c : Instr} {s t : State} (hc : Resets c) (h : exec c s = .next t) :
    t = s ∨ ∃ ph cause, (ph = .held ∨ ph = .startUp) ∧ t = powerOnValues ph cause s := by
  rcases hc with rfl | ⟨high, rfl⟩
  · change execPinReset s = .next t at h
    unfold execPinReset at h
    split at h <;> cases h
    · exact .inl rfl
    · exact .inl rfl
    · exact .inr ⟨_, _, .inl rfl, rfl⟩
    · exact .inr ⟨_, _, .inl rfl, rfl⟩
  · cases h
    refine .inr ⟨_, _, ?_, rfl⟩
    cases high
    · exact .inl rfl
    · exact .inr rfl

end Sys2Proof.Machine
end

section
/-! SUPPORT. How a property of states is shown to last: it is kept by every move, by notices and by resets. And the parts of the
state that the moves of queues, entries and counts leave alone. -/

namespace Sys2Proof.Machine

/-! ### Properties that events keep -/

/-- Every move keeps the property. -/
structure MovesKeep (P : State → Prop) : Prop where
  quiet : ∀ {s t}, Quiet s t → P s → P t
  queue : ∀ {s t}, QueueMove s t → P s → P t
  flow : ∀ {s t}, Flow s t → P s → P t
  decision : ∀ {s t}, Decision s t → P s → P t
  drains : ∀ {s u}, Ebbs s u → P s → P (completeDrains u)

/-- A property that each falling count keeps, and the completions behind them. -/
theorem keeps_ebbs {P : State → Prop} (quiet : ∀ {s t}, Quiet s t → P s → P t) (queue : ∀ {s t}, QueueMove s t → P s → P t)
    (ebb : ∀ {s t}, Ebb s t → P s → P t) {s u : State} (h : Ebbs s u) (hs : P s) : P u := by
  induction h with
  | refl => exact hs
  | tail _ last ih =>
    cases last with
    | quiet m => exact quiet m ih
    | queue m => exact queue m ih
    | ebb m => exact ebb m ih

theorem MovesKeep.moves {P : State → Prop} (keep : MovesKeep P) {s t : State} (h : Moves s t) (hs : P s) : P t := by
  induction h with
  | refl => exact hs
  | tail _ last ih =>
    cases last with
    | quiet m => exact keep.quiet m ih
    | queue m => exact keep.queue m ih
    | flow m => exact keep.flow m ih
    | decision m => exact keep.decision m ih
    | drains m => exact keep.drains m ih

/-- What a step keeps: the moves, the three ways in which an event ends with notices, the resets, and the queue's front. -/
theorem step_keeps {P : State → Prop} (keep : MovesKeep P)
    (noticed : ∀ before s, P s → P (notify before none s))
    (opened : ∀ s p, s.ctl.phase = .running → s.link p = .answering → P s → P (notify s (some p) (startSent p s)))
    (sent : ∀ s src pkt rest, s.returns src = pkt :: rest → s.link src.port = .up → P s →
      P (notify s (promptOf src pkt) (offerFreed s (sendHead src pkt s))))
    (reset : ∀ ph cause s, (ph = .held ∨ ph = .startUp) → P (powerOnValues ph cause s))
    (took : ∀ s rest, P s → P { s with pending := rest }) {s t : State} (hs : P s) (h : step s = .next t) : P t := by
  unfold step at h
  split at h
  · cases h
    exact hs
  · next c rest _ =>
    have hq := took s rest hs
    by_cases hc : Resets c
    · rcases exec_resets hc h with rfl | ⟨ph, cause, hp, rfl⟩
      · exact hq
      · exact reset ph cause _ hp
    · cases exec_event hc _ t h with
      | plain moves _ => exact keep.moves moves hq
      | noticed moves => exact noticed _ _ (keep.moves moves hq)
      | opened _ running answering => exact opened _ _ running answering hq
      | sent src pkt rest queue up => exact sent _ src pkt rest queue up hq

theorem moves_of_startSent {s : State} {p : Port} (running : s.ctl.phase = .running) (answering : s.link p = .answering) :
    Moves s (startSent p s) :=
  (QueueMove.starts p s running answering).moves.trans (quiet_setFlag .linkUp p _).moves

theorem moves_of_sendHead {s : State} {src : Source} {pkt : ReturnPacket} {rest : List ReturnPacket}
    (queue : s.returns src = pkt :: rest) (up : s.link src.port = .up) : Moves s (offerFreed s (sendHead src pkt s)) :=
  (QueueMove.sent src pkt rest s queue up).moves.trans (moves_of_offerFreed s _)

/-- A property that notices never break lasts if every move keeps it. -/
theorem step_keeps_of_notify {P : State → Prop} (keep : MovesKeep P)
    (notify : ∀ before prompt s, P s → P (notify before prompt s))
    (reset : ∀ ph cause s, (ph = .held ∨ ph = .startUp) → P (powerOnValues ph cause s))
    (took : ∀ s rest, P s → P { s with pending := rest }) {s t : State} (hs : P s) (h : step s = .next t) : P t :=
  step_keeps keep (fun before => notify before none)
    (fun s _ running answering hp => notify s _ _ (keep.moves (moves_of_startSent running answering) hp))
    (fun s _ _ _ queue up hp => notify s _ _ (keep.moves (moves_of_sendHead queue up) hp)) reset took hs h

/-! ### A host's session end in one record -/

/-- One step of a host's session end for its entries. -/
def orphanStep (h : HostId) (s : State) (i : Fin Config.replyEntries) : State :=
  match (s.entry i).state with
  | .free => s
  | .waiting w => if w.host = h then s.setEntry i { s.entry i with state := .waiting { w with orphan := true } } else s
  | .answered a => if a.host = h then freeEntry i s else s

theorem orphanStep_entry (h : HostId) (s : State) (i k : Fin Config.replyEntries) :
    (orphanStep h s i).entry k = if k = i then orphanedEntry h (s.entry i) else s.entry k := by
  unfold orphanStep orphanedEntry freeEntry
  cases hs : (s.entry i).state with
  | free => split <;> simp_all
  | waiting w =>
    dsimp only
    split
    · rw [State.setEntry_entry]
    · split <;> simp_all
  | answered a =>
    dsimp only
    split
    · rw [State.setEntry_entry]
    · split <;> simp_all

/-- Nothing differs but reply entries. -/
def EntriesOnly (s t : State) : Prop := t = { s with table := { s.table with entries := t.table.entries } }

theorem EntriesOnly.trans {s t u : State} (a : EntriesOnly s t) (b : EntriesOnly t u) : EntriesOnly s u := by
  unfold EntriesOnly at *
  rw [b, a]

theorem entriesOnly_setEntry (i : Fin Config.replyEntries) (e : Entry) (s : State) : EntriesOnly s (s.setEntry i e) := rfl

theorem entriesOnly_orphanStep (h : HostId) (s : State) (i : Fin Config.replyEntries) : EntriesOnly s (orphanStep h s i) := by
  unfold orphanStep freeEntry
  split
  · rfl
  · split
    · exact entriesOnly_setEntry ..
    · rfl
  · split
    · exact entriesOnly_setEntry ..
    · rfl

/-- A host's session end writes every entry at once (R67). -/
theorem orphanEntries_eq (h : HostId) (s : State) :
    orphanEntries h s = { s with table := { s.table with entries := Vector.ofFn fun i => orphanedEntry h (s.entry i) } } := by
  have fold : orphanEntries h s = (List.finRange Config.replyEntries).foldl (orphanStep h) s := rfl
  have rest : EntriesOnly s (orphanEntries h s) := by
    rw [fold]
    exact foldl_rel (R := EntriesOnly) (fun _ => rfl) (fun _ _ _ => .trans) _ (entriesOnly_orphanStep h) _ s
  have entries : (orphanEntries h s).table.entries = Vector.ofFn fun i => orphanedEntry h (s.entry i) := by
    ext1 i hi
    have entry := foldl_entry (orphanStep_entry h) _ (List.nodup_finRange Config.replyEntries) s ⟨i, hi⟩
    rw [← fold, if_pos (List.mem_finRange _)] at entry
    rw [Vector.getElem_ofFn]
    exact entry
  unfold EntriesOnly at rest
  rw [rest, entries]

/-- A notification POST of the notified host is lost with its return queue (R184). -/
def losesNotification (h : HostId) (s : State) : Bool :=
  (s.returns (.host h)).any isNotification && s.events.setting.host == some h

/-- A host port's session end, its link going to a new state, in one record (R156). -/
theorem endHostSession_eq (h : HostId) (l : LinkState) (n : Nat) (s : State) :
    endHostSession h n (s.setLink (.host h) l) =
      { s with
        fwd := { s.fwd with ingress := s.fwd.ingress.set h [], waiting := s.fwd.waiting.set h .clear }
        table := { s.table with entries := Vector.ofFn fun i => orphanedEntry h (s.entry i) }
        eng := { s.eng with orders := s.eng.orders.set (.host h) (silenced (s.orders (.host h))) }
        ports := { s.ports with
          link := s.ports.link.set (.host h) l, held := s.ports.held.set (.host h) n
          grantedRequest := s.ports.grantedRequest.set h 0, grantedOrder := s.ports.grantedOrder.set (.host h) 0
          session := s.ports.session.set h (s.ports.session.get h + 1), returns := s.ports.returns.set (.host h) [] }
        events := raiseFlag .hostDown (portMask (.host h))
          { s.events with notificationOwed := s.events.notificationOwed || losesNotification h s } } := by
  have ports : ((((((s.setLink (.host h) l).setSession h (s.ports.session.get h + 1)).setHeld (.host h) n).setGrantedRequest h
      0).setGrantedOrder (.host h) 0).setReturns (.host h) []) = { s with
        ports := { s.ports with
          link := s.ports.link.set (.host h) l, held := s.ports.held.set (.host h) n
          grantedRequest := s.ports.grantedRequest.set h 0, grantedOrder := s.ports.grantedOrder.set (.host h) 0
          session := s.ports.session.set h (s.ports.session.get h + 1), returns := s.ports.returns.set (.host h) [] } } := by
    dsimp only [State.setLink, State.setSession, State.setHeld, State.setGrantedRequest, State.setGrantedOrder,
      State.setReturns]
  have lost : (((s.setLink (.host h) l).returns (.host h)).any isNotification &&
      (s.setLink (.host h) l).events.setting.host == some h) = losesNotification h s := rfl
  have session : (s.setLink (.host h) l).ports.session = s.ports.session := rfl
  unfold endHostSession
  dsimp only
  rw [lost, session, ports, orphanEntries_eq]
  cases losesNotification h s with
  | true => rw [Bool.or_true]; rfl
  | false => rw [Bool.or_false]; rfl

/-- M's session end, its link going to a new state, in one record (R158). -/
theorem endMgmtSession_eq (l : LinkState) (n : Nat) (s : State) :
    endMgmtSession n (s.setLink .mgmt l) =
      { s with
        eng := { s.eng with orders := s.eng.orders.set .mgmt (silenced (s.orders .mgmt)) }
        ports := { s.ports with
          link := s.ports.link.set .mgmt l, held := s.ports.held.set .mgmt n
          grantedOrder := s.ports.grantedOrder.set .mgmt 0, returns := s.ports.returns.set .mgmt [] }
        events := { s.events with noticeOwed := s.events.noticeOwed || (s.returns .mgmt).any isNotice } } := by
  unfold endMgmtSession
  dsimp only
  have lost : (s.setLink .mgmt l).returns .mgmt = s.returns .mgmt := rfl
  rw [lost]
  cases (s.returns .mgmt).any isNotice with
  | true => rw [Bool.or_true]; rfl
  | false => rw [Bool.or_false]; rfl

/-! ### What moves of queues and counts leave alone -/

/-- Windows, the pool, the fallback setting, drain jobs, the freeze flag, rights and allotments stand. -/
structure WindowsStand (s t : State) : Prop where
  windows : WindowsKept s t
  pool : t.dir.poolFree = s.dir.poolFree
  fallback : t.dir.fallback = s.dir.fallback
  drains : t.eng.drains = s.eng.drains
  frozen : t.eng.frozen = s.eng.frozen
  rights : t.eng.rights = s.eng.rights
  allotment : t.eng.allotment = s.eng.allotment

theorem WindowsStand.refl (s : State) : WindowsStand s s := ⟨fun _ => ⟨rfl, rfl⟩, rfl, rfl, rfl, rfl, rfl, rfl⟩

theorem WindowsStand.of_same {s t : State} (dir : t.dir = s.dir) (drains : t.eng.drains = s.eng.drains)
    (frozen : t.eng.frozen = s.eng.frozen) (rights : t.eng.rights = s.eng.rights) (allotment : t.eng.allotment = s.eng.allotment) :
    WindowsStand s t :=
  ⟨fun i => by unfold State.slot; rw [dir]; exact ⟨rfl, rfl⟩, by rw [dir], by rw [dir], drains, frozen, rights, allotment⟩

theorem WindowsStand.of_eng {s t : State} (windows : WindowsKept s t) (pool : t.dir.poolFree = s.dir.poolFree)
    (fallback : t.dir.fallback = s.dir.fallback) (eng : t.eng = s.eng) : WindowsStand s t :=
  ⟨windows, pool, fallback, by rw [eng], by rw [eng], by rw [eng], by rw [eng]⟩

theorem releaseSent_dir (src : Source) (pkt : ReturnPacket) (s : State) : (releaseSent src pkt s).dir = s.dir := by
  unfold releaseSent
  split
  · split <;> rfl
  · split <;> rfl
  · rfl
  · rfl

/-- The sending of a packet changes order queues in the Directory Engine, and nothing else of it. -/
theorem releaseSent_eng (src : Source) (pkt : ReturnPacket) (s : State) :
    (releaseSent src pkt s).eng = { s.eng with orders := (releaseSent src pkt s).eng.orders } := by
  unfold releaseSent
  split
  · split <;> rfl
  · split <;> rfl
  · rfl
  · rfl

theorem QueueMove.dir {s t : State} (h : QueueMove s t) : t.dir = s.dir := by
  cases h with
  | hostDown h l n => rw [endHostSession_eq]
  | mgmtDown l n => rw [endMgmtSession_eq]
  | starts p => cases p <;> rfl
  | sent src pkt => exact releaseSent_dir ..
  | flushed h =>
    unfold flushIngress returnRequestCredits
    split <;> rfl
  | _ => rfl

/-- Moves of queues change order queues in the Directory Engine, and nothing else of it. -/
theorem QueueMove.eng {s t : State} (h : QueueMove s t) : t.eng = { s.eng with orders := t.eng.orders } := by
  cases h with
  | hostDown h l n => rw [endHostSession_eq]
  | mgmtDown l n => rw [endMgmtSession_eq]
  | starts p => cases p <;> rfl
  | sent src pkt => exact releaseSent_eng ..
  | flushed h => rw [flushIngress_eng]
  | _ => rfl

theorem QueueMove.stand {s t : State} (h : QueueMove s t) : WindowsStand s t := by
  have eng := h.eng
  exact .of_same h.dir (by rw [eng]) (by rw [eng]) (by rw [eng]) (by rw [eng])

theorem TrafficEnds.stand {s t : State} (h : TrafficEnds s t) : WindowsStand s t := .of_eng h.windows h.pool h.fallback h.eng

theorem TrafficMoves.stand {s t : State} (h : TrafficMoves s t) : WindowsStand s t := .of_eng h.windows h.pool h.fallback h.eng

theorem Ebb.stand {s t : State} (h : Ebb s t) : WindowsStand s t := by
  cases h with
  | left i w st d => exact (ends_leaveWaiting i st d s).stand
  | lost picks g => exact (ends_removePosts picks g s).stand
  | delivered g pkt rest =>
    have falls := lowerCountOf_spec pkt (sendAgainstCredit (.target g) (.egress pkt) (s.setEgress g (s.egress g).tail))
    exact .of_eng falls.windows falls.pool falls.fallback falls.ends.eng

theorem Flow.traffic {s t : State} (h : Flow s t) : TrafficMoves s t := by
  cases h with
  | fetched h tag n hop i s head free fresh opens => exact moves_forwardFetch h tag n hop i s free opens
  | posted h d hop g s opens => exact moves_placePost h d hop g s opens

theorem Flow.stand {s t : State} (h : Flow s t) : WindowsStand s t := h.traffic.stand

/-! ### What decisions do to their slot -/

@[simp] theorem reserve_poolFree (c : PendingChange) (s : State) :
    (reserve c s).dir.poolFree = match c with | .attach _ => s.dir.poolFree - 1 | _ => s.dir.poolFree := by
  cases c <;> rfl

theorem slotOnly_reserve (i : Fin Config.slots) (c : PendingChange) (s : State) : SlotOnly i s (reserve c s) := by
  cases c with
  | attach r => exact ⟨fun _ _ => rfl, rfl⟩
  | modify f => exact .refl i s
  | detach k => exact .refl i s

theorem SlotOnly.trans {i : Fin Config.slots} {s t u : State} (a : SlotOnly i s t) (b : SlotOnly i t u) : SlotOnly i s u :=
  ⟨fun k hk => (b.others k hk).trans (a.others k hk), by rw [b.rest, a.rest]⟩

/-- The records that a change gives back to the pool when it takes effect (R114). -/
def releasedBy (c : PendingChange) (w : Window) : Nat :=
  match c with
  | .detach k => w.chain.length - (dropKind k w.chain).length
  | _ => 0

theorem applyChange_poolFree (i : Fin Config.slots) (c : PendingChange) (w : Window) (s : State) :
    (applyChange i c w s).dir.poolFree = s.dir.poolFree + releasedBy c w := by cases c <;> rfl

@[simp] theorem startDrain_dir (i : Fin Config.slots) (w : Window) (st : WindowState) (p : Purpose) (m : Mode) (src : Source)
    (e : OrderEntry) (s : State) : (startDrain i w st p m src e s).dir = (setWindow i { w with state := st } s).dir := rfl

theorem startDrain_slot (i k : Fin Config.slots) (w : Window) (st : WindowState) (p : Purpose) (m : Mode) (src : Source)
    (e : OrderEntry) (s : State) :
    (startDrain i w st p m src e s).slot k = if k = i then { s.slot i with window := some { w with state := st } } else s.slot k := by
  unfold State.slot
  rw [startDrain_dir]
  exact State.setSlot_slot s i _ k

/-- The slot of an abandoned drain as it is left: LIVE again, a pending attach's record back in the pool (R125). -/
def restoreWindow (i : Fin Config.slots) (s : State) : State :=
  match (s.slot i).window with
  | some w =>
    match w.state with
    | .drainRetire => setWindow i { w with state := .live } s
    | .drainChange (.attach _) => (setWindow i { w with state := .live } s).setPoolFree (s.dir.poolFree + 1)
    | .drainChange _ => setWindow i { w with state := .live } s
    | _ => s
  | none => s

theorem abandonJob_eq (j : DrainJob) (s : State) :
    abandonJob j s = closeOrder j.source j.handle.slot .drainExpired (removeJob j.handle.slot (restoreWindow j.handle.slot s)) :=
  rfl

theorem slotOnly_restoreWindow (i : Fin Config.slots) (s : State) : SlotOnly i s (restoreWindow i s) := by
  unfold restoreWindow
  split
  · split
    · exact slotOnly_setSlot i _ s
    · exact (slotOnly_setSlot i _ s).setPoolFree _
    · exact slotOnly_setSlot i _ s
    · exact .refl i s
  · exact .refl i s

/-- The record that a state holds for a pending attach (R102). -/
def pendingRecord : WindowState → Nat
  | .drainChange (.attach _) => 1
  | _ => 0

theorem recordsOut_some {x : Slot} {w : Window} (h : x.window = some w) : recordsOut x = w.chain.length + pendingRecord w.state := by
  unfold recordsOut pendingRecord
  rw [h] <;> rfl

theorem recordsOut_none {x : Slot} (h : x.window = none) : recordsOut x = 0 := by
  unfold recordsOut
  rw [h]

/-- A DRAINING window is LIVE as it was. -/
theorem restoreWindow_draining {i : Fin Config.slots} {s : State} {w : Window} (hw : (s.slot i).window = some w)
    (hd : isDraining w.state = true) :
    (restoreWindow i s).slot i = { s.slot i with window := some { w with state := .live } } ∧
      (restoreWindow i s).dir.poolFree = s.dir.poolFree + pendingRecord w.state := by
  unfold restoreWindow
  cases hs : w.state with
  | staged => simp [hs, isDraining] at hd
  | live => simp [hs, isDraining] at hd
  | drainRetire =>
    simp only [hw, hs]
    exact ⟨State.setSlot_slot_self .., rfl⟩
  | drainChange c =>
    cases c with
    | attach r =>
      simp only [hw, hs]
      exact ⟨State.setSlot_slot_self .., rfl⟩
    | modify f =>
      simp only [hw, hs]
      exact ⟨State.setSlot_slot_self .., rfl⟩
    | detach k =>
      simp only [hw, hs]
      exact ⟨State.setSlot_slot_self .., rfl⟩

/-- A slot without a DRAINING window is left as it is. -/
theorem restoreWindow_other {i : Fin Config.slots} {s : State} (h : ∀ w, (s.slot i).window = some w → isDraining w.state = false) :
    restoreWindow i s = s := by
  unfold restoreWindow
  split
  · next w hw =>
    have none := h w hw
    split
    · next hs => simp [hs, isDraining] at none
    · next hs => simp [hs, isDraining] at none
    · next hs => simp [hs, isDraining] at none
    · rfl
  · rfl

theorem carryOutPurpose_other {i : Fin Config.slots} {s : State}
    (h : ∀ w, (s.slot i).window = some w → isDraining w.state = false) : carryOutPurpose i s = s := by
  unfold carryOutPurpose
  split
  · next w hw =>
    have none := h w hw
    split
    · next hs => simp [hs, isDraining] at none
    · next hs => simp [hs, isDraining] at none
    · rfl
  · rfl

@[simp] theorem removeJob_dir (i : Fin Config.slots) (s : State) : (removeJob i s).dir = s.dir := rfl

theorem abandonJob_dir (j : DrainJob) (s : State) : (abandonJob j s).dir = (restoreWindow j.handle.slot s).dir := by
  rw [abandonJob_eq, closeOrder_dir, removeJob_dir]

theorem completeJob_dir (j : DrainJob) (s : State) : (completeJob j s).dir = (carryOutPurpose j.handle.slot s).dir := by
  unfold completeJob
  rw [closeOrder_dir, removeJob_dir]

/-- Completions keep a property of states if the completion of a job whose window has no traffic left does. -/
theorem completeDrains_keeps {P : State → Prop}
    (job : ∀ j s, (s.slot j.handle.slot).count = 0 → P s → P (completeJob j s)) (s : State) (hs : P s) :
    P (completeDrains s) := by
  have fold := foldl_rel (R := fun u v => P u → P v) (fun _ h => h) (fun _ _ _ a b h => b (a h))
    (fun s' (j : DrainJob) => if (s'.slot j.handle.slot).count = 0 then completeJob j s' else s')
    (fun u j hu => by
      split
      · next zero => exact job j u zero hu
      · exact hu)
  exact fold s.eng.drains s hs

end Sys2Proof.Machine
end

section
/-! PROOFS. Steps, completion of every command, power and reset, and the invariants of flags. -/

namespace Sys2Proof.Machine

/-! ### Steps -/

/-- Settles O1: the step function's two equations. -/
theorem stepTakesFront : Obligations.StepTakesFront := by
  unfold Obligations.StepTakesFront
  constructor
  · intro c rest s
    rfl
  · intro s h
    unfold step
    rw [h]

/-! ### What has left and what waits -/

/-- The commands that wait stand, and no unit that has left comes back. -/
structure Outward (s t : State) : Prop where
  pending : t.pending = s.pending
  sent : s.sent <+: t.sent

theorem Outward.refl (s : State) : Outward s s := ⟨rfl, List.prefix_rfl⟩

theorem Outward.trans {s t u : State} (a : Outward s t) (b : Outward t u) : Outward s u :=
  ⟨b.pending.trans a.pending, a.sent.trans b.sent⟩

theorem Outward.same {s t : State} (pending : t.pending = s.pending) (sent : t.sent = s.sent) : Outward s t :=
  ⟨pending, sent ▸ List.prefix_rfl⟩

theorem Quiet.outward {s t : State} (h : Quiet s t) : Outward s t := by
  cases h with
  | barred p b => cases p <;> exact .same rfl rfl
  | _ => exact .same rfl rfl

theorem outward_releaseSent (src : Source) (pkt : ReturnPacket) (s : State) : Outward s (releaseSent src pkt s) := by
  unfold releaseSent
  split
  · split
    · exact .same rfl rfl
    · exact .refl s
  · split
    · exact ⟨rfl, List.prefix_append ..⟩
    · exact .refl s
  · exact .refl s
  · exact .refl s

theorem QueueMove.outward {s t : State} (h : QueueMove s t) : Outward s t := by
  cases h with
  | starts p => cases p <;> exact ⟨rfl, List.prefix_append ..⟩
  | requestBounced h => exact ⟨rfl, List.prefix_append ..⟩
  | orderBounced src => exact ⟨rfl, List.prefix_append ..⟩
  | head h => exact ⟨rfl, List.prefix_append ..⟩
  | sent src pkt =>
    have left : Outward s (sendAgainstCredit src.port (.back pkt) (s.setReturns src (s.returns src).tail)) :=
      ⟨rfl, List.prefix_append ..⟩
    exact left.trans (outward_releaseSent src pkt _)
  | hostDown h l n => rw [endHostSession_eq]; exact .same rfl rfl
  | mgmtDown l n => rw [endMgmtSession_eq]; exact .same rfl rfl
  | flushed h =>
    unfold flushIngress returnRequestCredits
    split
    · exact .same rfl rfl
    · exact ⟨rfl, List.prefix_append ..⟩
  | _ => exact .same rfl rfl

theorem TrafficEnds.outward {s t : State} (h : TrafficEnds s t) : Outward s t := .same h.pending h.sent

theorem Ebb.outward {s t : State} (h : Ebb s t) : Outward s t := by
  cases h with
  | left i w st d => exact (ends_leaveWaiting i st d s).outward
  | lost picks g => exact (ends_removePosts picks g s).outward
  | delivered g pkt rest =>
    have left : Outward s (sendAgainstCredit (.target g) (.egress pkt) (s.setEgress g (s.egress g).tail)) :=
      ⟨rfl, List.prefix_append ..⟩
    exact left.trans (lowerCountOf_spec pkt _).ends.outward

theorem Flow.outward {s t : State} (h : Flow s t) : Outward s t := ⟨h.traffic.pending, h.traffic.sent⟩

theorem SlotOnly.outward {i : Fin Config.slots} {s t : State} (h : SlotOnly i s t) : Outward s t := by
  rw [h.rest]
  exact .same rfl rfl

theorem DrainsEnd.outward {s t : State} (h : DrainsEnd s t) : Outward s t := by
  rw [h.rest]
  exact .same rfl rfl

theorem Decision.outward {s t : State} (h : Decision s t) : Outward s t := by
  cases h with
  | changed i w c => exact ((slotOnly_reserve i c s).trans (slotOnly_applyChange i c w _)).outward
  | drains i w c m src e =>
    have reserved : Outward s (reserve c s) := (slotOnly_reserve i c s).outward
    exact reserved.trans (.same rfl rfl)
  | freed i w => exact (slotOnly_freeSlot i s).outward
  | abandoned j =>
    have restored : Outward s (restoreWindow j.handle.slot s) := (slotOnly_restoreWindow _ s).outward
    rw [abandonJob_eq]
    exact (restored.trans (drainsEnd_removeJob _ _).outward).trans (drainsEnd_closeOrder ..).outward
  | _ => exact .same rfl rfl

theorem Ebbs.outward {s t : State} (h : Ebbs s t) : Outward s t := by
  induction h with
  | refl => exact .refl s
  | tail _ last ih =>
    cases last with
    | quiet m => exact ih.trans m.outward
    | queue m => exact ih.trans m.outward
    | ebb m => exact ih.trans m.outward

theorem Moves.outward {s t : State} (h : Moves s t) : Outward s t := by
  induction h with
  | refl => exact .refl s
  | tail _ last ih =>
    cases last with
    | quiet m => exact ih.trans m.outward
    | queue m => exact ih.trans m.outward
    | flow m => exact ih.trans m.outward
    | decision m => exact ih.trans m.outward
    | drains m => exact (ih.trans m.outward).trans (drainsEnd_completeDrains _).outward

theorem Outward.notify {s t : State} (h : Outward s t) (before : State) (prompt : Option Port) :
    Outward s (notify before prompt t) :=
  h.trans (.same (notify_pending ..) (notify_sent ..))

theorem Event.outward {s t : State} (h : Event s t) : Outward s t := by
  cases h with
  | plain moves => exact moves.outward
  | noticed moves => exact moves.outward.notify ..
  | opened p running answering => exact (moves_of_startSent running answering).outward.notify ..
  | sent src pkt rest queue up => exact (moves_of_sendHead queue up).outward.notify ..

theorem outward_exec {c : Instr} {s t : State} (h : exec c s = .next t) : Outward s t := by
  by_cases hc : Resets c
  · rcases exec_resets hc h with rfl | ⟨ph, cause, _, rfl⟩
    · exact .refl _
    · exact .same rfl rfl
  · exact (exec_event hc s t h).outward

/-! ### Every command completes -/

/-- The answer is a next state. -/
def Completes (a : Answer) : Prop := ∃ t, a = .next t

theorem Completes.next (t : State) : Completes (.next t) := ⟨t, rfl⟩

theorem completes_exec (c : Instr) (s : State) : Completes (exec c s) := by
  cases c with
  | delivery t =>
    change Completes (execDelivery t s)
    unfold execDelivery
    split
    · exact .next _
    · split <;> exact .next _
  | returnQueueSending src =>
    change Completes (execReturnQueueSending src s)
    unfold execReturnQueueSending
    split
    · exact .next _
    · split <;> exact .next _
  | forwardAttempt h =>
    change Completes (execForwardAttempt h s)
    unfold execForwardAttempt
    split <;> exact .next _
  | replyTimerExpiry i =>
    change Completes (execReplyTimerExpiry i s)
    unfold execReplyTimerExpiry
    split
    · split <;> exact .next _
    · exact .next _
  | drainTimerExpiry i =>
    change Completes (execDrainTimerExpiry i s)
    unfold execDrainTimerExpiry
    split
    · split
      · split <;> exact .next _
      · exact .next _
    · exact .next _
  | partStartSent p =>
    change Completes (execPartStartSent p s)
    unfold execPartStartSent
    split <;> exact .next _
  | lossOfSignal p =>
    change Completes (execLossOfSignal p s)
    unfold execLossOfSignal
    split <;> exact .next _
  | pinReset =>
    change Completes (execPinReset s)
    unfold execPinReset
    split <;> exact .next _
  | resetNRelease =>
    change Completes (execResetNRelease s)
    unfold execResetNRelease
    split <;> exact .next _
  | startUpEnd =>
    change Completes (execStartUpEnd s)
    unfold execStartUpEnd
    split <;> exact .next _
  | _ => exact .next _

/-- Settles O2: each arm of exec answers a next state, and the moves that make it leave the waiting commands alone and add to
what has left at its tail. -/
theorem everyCommandCompletes : Obligations.EveryCommandCompletes := by
  unfold Obligations.EveryCommandCompletes
  intro c s
  obtain ⟨t, ht⟩ := completes_exec c s
  exact ⟨t, ht, (outward_exec ht).pending, (outward_exec ht).sent⟩

/-! ### Power-on, pin reset and start-up -/

theorem powerOnValues_hold (ph : Phase) (cause : ResetCause) (s : State) : PowerOnValues (powerOnValues ph cause s) where
  slots i := Vector.getElem_replicate i.isLt
  pool := ⟨rfl, rfl, rfl⟩
  hosts h := by cases h <;> exact ⟨rfl, rfl, rfl, rfl, rfl, rfl, rfl⟩
  entries i := Vector.getElem_replicate i.isLt
  positions := ⟨rfl, rfl, fun g => PerTarget.get_replicate _ g⟩
  sources src := ⟨PerSource.get_replicate _ src, PerSource.get_replicate _ src, PerSource.get_replicate _ src⟩
  engine := ⟨rfl, rfl, rfl, rfl⟩
  links p := ⟨PerPort.get_replicate _ p, PerPort.get_replicate _ p⟩
  targets g := ⟨PerTarget.get_replicate _ g, PerTarget.get_replicate _ g⟩
  flags := ⟨rfl, rfl, fun i => Vector.getElem_replicate i.isLt⟩
  notices := ⟨rfl, rfl, rfl, rfl⟩

/-- Settles O4: each command by the phase it finds. -/
theorem powerAndResetEvents : Obligations.PowerAndResetEvents := by
  unfold Obligations.PowerAndResetEvents
  intro s
  have pin : exec .pinReset s = execPinReset s := rfl
  have release : exec .resetNRelease s = execResetNRelease s := rfl
  have startUpEnd : exec .startUpEnd s = execStartUpEnd s := rfl
  rw [pin, release, startUpEnd]
  unfold execPinReset execResetNRelease execStartUpEnd
  refine ⟨fun high => ?_, rfl, ?_, ?_, fun h => if_pos h, fun h => if_neg h, fun h => if_pos h, fun h => if_neg h⟩
  · exact ⟨_, rfl, powerOnValues_hold .., rfl, rfl, rfl⟩
  · rintro (h | h) <;> rw [h] <;> exact ⟨_, rfl, powerOnValues_hold .., rfl, rfl, rfl⟩
  · rintro (h | h) <;> rw [h]

/-! ### NOTE_N (R181) -/

theorem driveNote_follows (e : Events) :
    (driveNote e).noteN = true ↔
      ∃ i : Fin 12, (driveNote e).pending.getLsbD i.val = true ∧ (driveNote e).enabled.getLsbD i.val = true := by
  have active : (driveNote e).noteN = true ↔ e.pending &&& e.enabled ≠ 0 := by simp [driveNote, activeFlags]
  rw [active]
  constructor
  · intro some
    by_contra none
    push Not at none
    apply some
    ext i hi
    have clear := none ⟨i, hi⟩
    simpa [driveNote, BitVec.getLsbD_eq_getElem hi] using clear
  · rintro ⟨i, pending, enabled⟩ zero
    have bit := congrArg (fun x : BitVec 12 => x.getLsbD i.val) zero
    simp [driveNote] at pending enabled
    simp [pending, enabled] at bit

theorem NoteFollowsFlags.driven {e : Events} {t : State} (h : t.events = driveNote e) : NoteFollowsFlags t := by
  intro _
  rw [h]
  exact driveNote_follows e

/-- Flags, enable set, output and phase stand. -/
structure NoteStands (s t : State) : Prop where
  pending : t.events.pending = s.events.pending
  enabled : t.events.enabled = s.events.enabled
  noteN : t.events.noteN = s.events.noteN
  phase : t.ctl.phase = s.ctl.phase

theorem NoteFollowsFlags.stands {s t : State} (hs : NoteFollowsFlags s) (h : NoteStands s t) : NoteFollowsFlags t := by
  unfold NoteFollowsFlags
  rw [h.pending, h.enabled, h.noteN, h.phase]
  exact hs

theorem NoteStands.same {s t : State} (events : t.events = s.events) (ctl : t.ctl = s.ctl) : NoteStands s t :=
  ⟨by rw [events], by rw [events], by rw [events], by rw [ctl]⟩

theorem releaseSent_events (src : Source) (pkt : ReturnPacket) (s : State) : (releaseSent src pkt s).events = s.events := by
  unfold releaseSent
  split
  · split <;> rfl
  · split <;> rfl
  · rfl
  · rfl

theorem releaseSent_ctl (src : Source) (pkt : ReturnPacket) (s : State) : (releaseSent src pkt s).ctl = s.ctl := by
  unfold releaseSent
  split
  · split <;> rfl
  · split <;> rfl
  · rfl
  · rfl

theorem QueueMove.ctl {s t : State} (h : QueueMove s t) : t.ctl = s.ctl := by
  cases h with
  | hostDown h l n => rw [endHostSession_eq]
  | mgmtDown l n => rw [endMgmtSession_eq]
  | starts p => cases p <;> rfl
  | sent src pkt => exact releaseSent_ctl ..
  | flushed h =>
    unfold flushIngress returnRequestCredits
    split <;> rfl
  | _ => rfl

/-- Only a host's session end sets a flag (R156), and NOTE_N follows it. -/
theorem QueueMove.note {s t : State} (h : QueueMove s t) : NoteStands s t ∨ ∃ e, t.events = driveNote e := by
  cases h with
  | hostDown h l n =>
    rw [endHostSession_eq]
    exact .inr ⟨_, rfl⟩
  | mgmtDown l n =>
    rw [endMgmtSession_eq]
    exact .inl ⟨rfl, rfl, rfl, rfl⟩
  | starts p => cases p <;> exact .inl (.same rfl rfl)
  | sent src pkt => exact .inl (.same (releaseSent_events ..) (releaseSent_ctl ..))
  | flushed h =>
    unfold flushIngress returnRequestCredits
    split <;> exact .inl (.same rfl rfl)
  | _ => exact .inl (.same rfl rfl)

theorem CountFalls.events {s t : State} (h : CountFalls s t) : t.events = s.events := by rw [h.rest]

theorem raiseCount_events (r : Route) (s : State) : (raiseCount r s).events = s.events := by cases r <;> rfl

theorem Flow.events {s t : State} (h : Flow s t) : t.events = s.events := by
  cases h with
  | fetched h tag n hop => exact raiseCount_events ..
  | posted h d hop => exact raiseCount_events ..

theorem removePosts_events (picks : EgressPacket → Bool) (g : TargetId) (s : State) :
    (removePosts picks g s).events = s.events :=
  foldl_rel (R := fun u v : State => v.events = u.events) (fun _ => rfl) (fun _ _ _ a b => b.trans a)
    (fun u pkt => lowerCountOf pkt u) (fun u pkt => (lowerCountOf_spec pkt u).events) _ _

theorem Ebb.events {s t : State} (h : Ebb s t) : t.events = s.events := by
  cases h with
  | left i w st d => exact leaveWaiting_events ..
  | lost picks g => exact removePosts_events ..
  | delivered g pkt rest => exact (lowerCountOf_spec pkt _).events

theorem Ebb.ctl {s t : State} (h : Ebb s t) : t.ctl = s.ctl := by
  cases h with
  | left i w st d => exact (ends_leaveWaiting i st d s).ctl
  | lost picks g => exact (ends_removePosts picks g s).ctl
  | delivered g pkt rest => exact (lowerCountOf_spec pkt _).ends.ctl

theorem SlotOnly.events {i : Fin Config.slots} {s t : State} (h : SlotOnly i s t) : t.events = s.events := by rw [h.rest]

theorem SlotOnly.ctl {i : Fin Config.slots} {s t : State} (h : SlotOnly i s t) : t.ctl = s.ctl := by rw [h.rest]

theorem Decision.events {s t : State} (h : Decision s t) : t.events = s.events := by
  cases h with
  | changed i w c => exact ((slotOnly_reserve i c s).trans (slotOnly_applyChange i c w _)).events
  | drains i w c m src e =>
    have reserved : (reserve c s).events = s.events := (slotOnly_reserve i c s).events
    exact reserved
  | freed i w => exact (slotOnly_freeSlot i s).events
  | abandoned j =>
    rw [abandonJob_eq, (drainsEnd_closeOrder ..).events, (drainsEnd_removeJob ..).events]
    exact (slotOnly_restoreWindow _ s).events
  | _ => rfl

theorem Decision.ctl {s t : State} (h : Decision s t) : t.ctl = s.ctl := by
  cases h with
  | changed i w c => exact ((slotOnly_reserve i c s).trans (slotOnly_applyChange i c w _)).ctl
  | drains i w c m src e =>
    have reserved : (reserve c s).ctl = s.ctl := (slotOnly_reserve i c s).ctl
    exact reserved
  | freed i w => exact (slotOnly_freeSlot i s).ctl
  | abandoned j =>
    rw [abandonJob_eq, (drainsEnd_closeOrder ..).ctl, (drainsEnd_removeJob ..).ctl]
    exact (slotOnly_restoreWindow _ s).ctl
  | _ => rfl

theorem Quiet.noteFollows {s t : State} (h : Quiet s t) (hs : NoteFollowsFlags s) : NoteFollowsFlags t := by
  cases h with
  | raise f ps => exact .driven rfl
  | clear fs => exact .driven rfl
  | enable fs => exact .driven rfl
  | release _ held => exact fun _ => hs (by rw [held]; decide)
  | enablePorts _ startUp => exact fun _ => hs (by rw [startUp]; decide)
  | unpowered => exact fun powered => absurd rfl powered
  | barred p b => cases p <;> exact hs.stands (.same rfl rfl)
  | _ => exact hs.stands ⟨rfl, rfl, rfl, rfl⟩

theorem QueueMove.noteFollows {s t : State} (h : QueueMove s t) (hs : NoteFollowsFlags s) : NoteFollowsFlags t := by
  rcases h.note with same | ⟨e, he⟩
  · exact hs.stands same
  · exact .driven he

theorem movesKeep_noteFollows : MovesKeep NoteFollowsFlags where
  quiet h := h.noteFollows
  queue h := h.noteFollows
  flow h hs := hs.stands (.same h.events h.traffic.ctl)
  decision h hs := hs.stands (.same h.events h.ctl)
  drains h hs :=
    have falls := keeps_ebbs Quiet.noteFollows QueueMove.noteFollows (fun m hu => hu.stands (.same m.events m.ctl)) h hs
    falls.stands (.same (drainsEnd_completeDrains _).events (drainsEnd_completeDrains _).ctl)

theorem NoteFollowsFlags.notify {s : State} (before : State) (prompt : Option Port) (hs : NoteFollowsFlags s) :
    NoteFollowsFlags (notify before prompt s) := by
  have events := notify_events before prompt s
  exact hs.stands ⟨by rw [events], by rw [events], by rw [events], by rw [notify_ctl]⟩

theorem noteFollows_powerOnValues (ph : Phase) (cause : ResetCause) (s : State) : NoteFollowsFlags (powerOnValues ph cause s) :=
  fun _ => by
    obtain ⟨pending, enabled, _⟩ := (powerOnValues_hold ph cause s).flags
    rw [pending, enabled]
    exact ⟨fun _ => ⟨0, mask_bit .resetSeen, mask_bit .resetSeen⟩, fun _ => rfl⟩

/-- Settles O19: what sets, clears or enables a flag drives NOTE_N, and nothing else changes flags or output on a part with
supplies. -/
theorem noteFollowsFlagsKept : Obligations.NoteFollowsFlagsKept := by
  unfold Obligations.NoteFollowsFlagsKept
  intro s t hs h
  exact step_keeps_of_notify movesKeep_noteFollows (fun before prompt _ hp => hp.notify before prompt)
    (fun ph cause s _ => noteFollows_powerOnValues ph cause s) (fun _ _ hp => hp) hs h

end Sys2Proof.Machine
end

section
/-! PROOFS. The invariants of windows, the pool and drains: every move but a decision and a completion leaves windows, pool and
drain jobs alone, and those two touch one slot. -/

namespace Sys2Proof.Machine

/-! ### Properties of windows, pool and drain jobs -/

/-- Windows, pool and drain jobs stand. -/
structure DirectoryStands (s t : State) : Prop where
  windows : WindowsKept s t
  pool : t.dir.poolFree = s.dir.poolFree
  drains : t.eng.drains = s.eng.drains

theorem WindowsStand.directory {s t : State} (h : WindowsStand s t) : DirectoryStands s t := ⟨h.windows, h.pool, h.drains⟩

theorem DirectoryStands.of_dir {s t : State} (dir : t.dir = s.dir) (drains : t.eng.drains = s.eng.drains) :
    DirectoryStands s t :=
  ⟨fun i => by unfold State.slot; rw [dir]; exact ⟨rfl, rfl⟩, by rw [dir], drains⟩

theorem Quiet.directory {s t : State} (h : Quiet s t) : DirectoryStands s t := .of_dir h.same.dir h.same.drains

theorem QueueMove.directory {s t : State} (h : QueueMove s t) : DirectoryStands s t := h.stand.directory

theorem DirectoryStands.trans {s t u : State} (a : DirectoryStands s t) (b : DirectoryStands t u) : DirectoryStands s u :=
  ⟨fun i => ⟨(b.windows i).1.trans (a.windows i).1, (b.windows i).2.trans (a.windows i).2⟩, b.pool.trans a.pool,
    b.drains.trans a.drains⟩

/-- Before drains complete, no event changes windows, pool or drain jobs. -/
theorem Ebbs.directory {s t : State} (h : Ebbs s t) : DirectoryStands s t := by
  induction h with
  | refl => exact .of_dir rfl rfl
  | tail _ last ih =>
    cases last with
    | quiet m => exact ih.trans m.directory
    | queue m => exact ih.trans m.directory
    | ebb m => exact ih.trans m.stand.directory

/-- A property of windows, pool and drain jobs lasts if decisions and completions keep it and the power-on values have it. -/
theorem step_keeps_directory {P : State → Prop} (stand : ∀ {s t}, DirectoryStands s t → P s → P t)
    (decision : ∀ {s t}, Decision s t → P s → P t) (job : ∀ j s, P s → P (completeJob j s))
    (reset : ∀ ph cause s, P (powerOnValues ph cause s)) {s t : State} (hs : P s) (h : step s = .next t) : P t :=
  have keep : MovesKeep P :=
    { quiet := fun m => stand m.directory
      queue := fun m => stand m.directory
      flow := fun m => stand m.stand.directory
      decision := decision
      drains := fun m hp => completeDrains_keeps (fun j u _ => job j u) _ (stand m.directory hp) }
  step_keeps_of_notify keep (fun before prompt u => stand (.of_dir (notify_dir ..) (by rw [notify_eng])))
    (fun ph cause u _ => reset ph cause u) (fun _ _ => stand (.of_dir rfl rfl)) hs h

theorem powerOnValues_window (ph : Phase) (cause : ResetCause) (s : State) (i : Fin Config.slots) :
    ((powerOnValues ph cause s).slot i).window = none := by
  rw [(powerOnValues_hold ph cause s).slots i]

/-- What a completed drain leaves in its slot (R123, R124). -/
def drainedSlot (x : Slot) : Slot :=
  match x.window with
  | some w =>
    match w.state with
    | .drainRetire => { x with generation := x.generation + 1, window := none }
    | .drainChange c => { x with window := some { changed c w with state := .live } }
    | _ => x
  | none => x

theorem carryOutPurpose_slot (i : Fin Config.slots) (s : State) : (carryOutPurpose i s).slot i = drainedSlot (s.slot i) := by
  cases hw : (s.slot i).window with
  | none =>
    rw [carryOutPurpose_other fun w h => absurd (hw ▸ h) (by simp)]
    simp [drainedSlot, hw]
  | some w =>
    cases hs : w.state with
    | drainRetire =>
      rw [carryOutPurpose_retire hw hs]
      simp [drainedSlot, hw, hs]
    | drainChange c =>
      rw [carryOutPurpose_change hw hs]
      simp [drainedSlot, hw, hs]
    | staged =>
      rw [carryOutPurpose_other fun v h => by rw [hw] at h; cases h; rw [hs]; rfl]
      simp [drainedSlot, hw, hs]
    | live =>
      rw [carryOutPurpose_other fun v h => by rw [hw] at h; cases h; rw [hs]; rfl]
      simp [drainedSlot, hw, hs]

theorem not_draining_of_settled {x : WindowState} (h : x = .staged ∨ x = .live) : isDraining x = false := by
  rcases h with h | h <;> rw [h] <;> rfl

/-! ### The pool (R101, R102) -/

/-- The records that all slots have out. -/
def recordsInUse (s : State) : Nat := ((List.finRange Config.slots).map fun i => recordsOut (s.slot i)).sum

theorem recordsInUse_eq (s : State) : recordsInUse s = ∑ i, recordsOut (s.slot i) :=
  (Fin.sum_univ_def fun i => recordsOut (s.slot i)).symm

/-- One slot's records and the others'. -/
theorem recordsInUse_split (s : State) (i : Fin Config.slots) :
    recordsInUse s = recordsOut (s.slot i) + ∑ k ∈ Finset.univ.erase i, recordsOut (s.slot k) := by
  rw [recordsInUse_eq]
  exact (Finset.add_sum_erase _ _ (Finset.mem_univ i)).symm

theorem PoolBalanced.of_slotOnly {i : Fin Config.slots} {s t : State} (hs : PoolBalanced s) (only : SlotOnly i s t)
    (balance : t.dir.poolFree + recordsOut (t.slot i) = s.dir.poolFree + recordsOut (s.slot i)) : PoolBalanced t := by
  have before : s.dir.poolFree + recordsInUse s = Config.poolRecords := hs
  have others : ∑ k ∈ Finset.univ.erase i, recordsOut (t.slot k) = ∑ k ∈ Finset.univ.erase i, recordsOut (s.slot k) :=
    Finset.sum_congr rfl fun k hk => by rw [only.others k (Finset.ne_of_mem_erase hk)]
  change t.dir.poolFree + recordsInUse t = Config.poolRecords
  rw [recordsInUse_split t i, others, ← before, recordsInUse_split s i]
  omega

theorem PoolBalanced.stands {s t : State} (h : DirectoryStands s t) (hs : PoolBalanced s) : PoolBalanced t := by
  have records : ∀ i, recordsOut (t.slot i) = recordsOut (s.slot i) := fun i => by
    unfold recordsOut
    rw [(h.windows i).1]
  unfold PoolBalanced
  simp only [records, h.pool]
  exact hs

theorem PoolBalanced.of_dir {s t : State} (hs : PoolBalanced s) (h : t.dir = s.dir) : PoolBalanced t := by
  unfold PoolBalanced State.slot at *
  rw [h]
  exact hs

theorem pendingRecord_settled {x : WindowState} (h : x = .staged ∨ x = .live) : pendingRecord x = 0 := by
  rcases h with h | h <;> rw [h] <;> rfl

theorem length_dropKind_le (k : ExtKind) (chain : List ExtRecord) : (dropKind k chain).length ≤ chain.length :=
  List.length_filter_le ..

/-- A change moves records between pool and chain, the one that an attach has reserved among them. -/
theorem changed_chain_length (c : PendingChange) (w : Window) :
    releasedBy c w + (changed c w).chain.length = w.chain.length + pendingRecord (.drainChange c) := by
  cases c with
  | modify f => exact Nat.zero_add _
  | attach r => simp [releasedBy, changed, pendingRecord]
  | detach k =>
    have := length_dropKind_le k w.chain
    simp only [releasedBy, changed, pendingRecord]
    omega

theorem reserve_balance {s : State} {i : Fin Config.slots} {w : Window} {c : PendingChange} (fits : ChangeFits s i w c) :
    (reserve c s).dir.poolFree + pendingRecord (.drainChange c) = s.dir.poolFree := by
  cases c with
  | modify f => rfl
  | detach k => rfl
  | attach r =>
    have := fits.record r rfl
    simp only [reserve_poolFree, pendingRecord]
    omega

theorem changed_state (c : PendingChange) (w : Window) : (changed c w).state = w.state := by cases c <;> rfl

theorem slotOnly_startDrain_dir {i : Fin Config.slots} {w : Window} {st : WindowState} {p : Purpose} {m : Mode} {src : Source}
    {e : OrderEntry} (s : State) :
    SlotOnly i s (setWindow i { w with state := st } s) ∧
      (startDrain i w st p m src e s).dir = (setWindow i { w with state := st } s).dir :=
  ⟨slotOnly_setSlot i _ s, startDrain_dir ..⟩

theorem PoolBalanced.setWindow {s : State} {i : Fin Config.slots} {w v : Window} (hs : PoolBalanced s)
    (hw : (s.slot i).window = some w)
    (records : v.chain.length + pendingRecord v.state = w.chain.length + pendingRecord w.state) :
    PoolBalanced (setWindow i v s) := by
  refine hs.of_slotOnly (slotOnly_setSlot i _ s) ?_
  rw [recordsOut_some hw, recordsOut_some (w := v) (by rw [Machine.setWindow, State.setSlot_slot_self]), records]
  rfl

theorem PoolBalanced.carryOutPurpose {s : State} (hs : PoolBalanced s) (i : Fin Config.slots) :
    PoolBalanced (carryOutPurpose i s) := by
  cases hw : (s.slot i).window with
  | none =>
    rw [carryOutPurpose_other fun w h => absurd (hw ▸ h) (by simp)]
    exact hs
  | some w =>
    refine hs.of_slotOnly (slotOnly_carryOutPurpose i s) ?_
    rw [carryOutPurpose_slot, recordsOut_some hw]
    cases hst : w.state with
    | staged => simp [drainedSlot, hw, hst, recordsOut, Machine.carryOutPurpose, pendingRecord]
    | live => simp [drainedSlot, hw, hst, recordsOut, Machine.carryOutPurpose, pendingRecord]
    | drainRetire => simp [drainedSlot, hw, hst, recordsOut, Machine.carryOutPurpose, pendingRecord, freeSlot]
    | drainChange c =>
      have moved := changed_chain_length c w
      have pool : (Machine.carryOutPurpose i s).dir.poolFree = s.dir.poolFree + releasedBy c w := by
        simp only [Machine.carryOutPurpose, hw, hst]
        rw [applyChange_poolFree]
        rfl
      rw [pool, recordsOut_some (w := { changed c w with state := .live }) (by simp [drainedSlot, hw, hst])]
      simp only [pendingRecord] at moved ⊢
      omega

theorem Decision.poolBalanced {s t : State} (h : Decision s t) (hs : PoolBalanced s) : PoolBalanced t := by
  cases h with
  | fallback f => exact hs
  | rights h r a => exact hs
  | filled i w _ _ free settled chain =>
    refine hs.of_slotOnly (slotOnly_setSlot i _ s) ?_
    rw [recordsOut_none free, recordsOut_some (w := w) (by rw [State.setSlot_slot_self]), chain, pendingRecord_settled settled]
    rfl
  | activated i w _ _ window staged => exact hs.setWindow window (by rw [staged]; rfl)
  | locked i w _ _ window live => exact hs.setWindow window rfl
  | changed i w c _ _ window settled fits =>
    refine hs.of_slotOnly ((slotOnly_reserve i c s).trans (slotOnly_applyChange i c w _)) ?_
    have moved := changed_chain_length c w
    have reserved := reserve_balance fits
    rw [applyChange_poolFree, recordsOut_some window,
      recordsOut_some (w := Machine.changed c w) (by rw [applyChange_slot]), changed_state, pendingRecord_settled settled]
    omega
  | drains i w c m src e _ _ window live traffic room fits =>
    have reserved := reserve_balance fits
    refine PoolBalanced.of_dir (s := setWindow i { w with state := .drainChange c } (reserve c s)) ?_ (startDrain_dir ..)
    refine hs.of_slotOnly ((slotOnly_reserve i c s).trans (slotOnly_setSlot i _ _)) ?_
    rw [recordsOut_some window, recordsOut_some (w := { w with state := .drainChange c })
      (by rw [setWindow, State.setSlot_slot_self]), live]
    change (reserve c s).dir.poolFree + _ = _
    simp only [pendingRecord] at reserved ⊢
    omega
  | retires i w m src e _ _ window live =>
    refine PoolBalanced.of_dir (s := setWindow i { w with state := .drainRetire } s) ?_ (startDrain_dir ..)
    exact hs.setWindow window (by rw [live]; rfl)
  | freed i w _ _ window settled =>
    refine hs.of_slotOnly (slotOnly_freeSlot i s) ?_
    have none : pendingRecord w.state = 0 := pendingRecord_settled (settled.imp_right And.left)
    rw [recordsOut_none (freeSlot_window i s), recordsOut_some window, none]
    simp [freeSlot, window]
  | abandoned j =>
    refine PoolBalanced.of_dir (s := restoreWindow j.handle.slot s) ?_ (abandonJob_dir j s)
    by_cases hd : ∃ w, (s.slot j.handle.slot).window = some w ∧ isDraining w.state = true
    · obtain ⟨w, hw, draining⟩ := hd
      obtain ⟨slot, pool⟩ := restoreWindow_draining hw draining
      refine hs.of_slotOnly (slotOnly_restoreWindow _ s) ?_
      rw [pool, slot, recordsOut_some hw, recordsOut_some (w := { w with state := .live }) rfl]
      simp only [pendingRecord]
      omega
    · rw [restoreWindow_other fun w hw => by simpa using fun draining => hd ⟨w, hw, draining⟩]
      exact hs

theorem poolBalanced_powerOnValues (ph : Phase) (cause : ResetCause) (s : State) : PoolBalanced (powerOnValues ph cause s) := by
  have records : ∀ i, recordsOut ((powerOnValues ph cause s).slot i) = 0 := fun i =>
    recordsOut_none (powerOnValues_window ph cause s i)
  unfold PoolBalanced
  rw [(powerOnValues_hold ph cause s).pool.1]
  simp [records, Config.poolRecords]

/-- Settles O5: a decision or a completion moves records between the pool and its one slot. -/
theorem poolBalancedKept : Obligations.PoolBalancedKept := by
  unfold Obligations.PoolBalancedKept
  intro s t hs h
  exact step_keeps_directory PoolBalanced.stands Decision.poolBalanced
    (fun j u hu => (hu.carryOutPurpose j.handle.slot).of_dir (completeJob_dir j u)) poolBalanced_powerOnValues hs h

/-! ### Fields of windows (R5, R104, R106, R108, R123) -/

/-- A window's fields fit, and so do those it will have when its pending change is applied. -/
def WindowFits (w : Window) : Prop := FieldsFit w ∧ ∀ c, w.state = .drainChange c → FieldsFit (changed c w)

/-- The fields that FieldsFit reads are the same. -/
structure SameFields (w v : Window) : Prop where
  base : v.base = w.base
  limit : v.limit = w.limit
  target : v.target = w.target
  chain : v.chain = w.chain

theorem FieldsFit.of_same {w v : Window} (fit : FieldsFit w) (h : SameFields w v) : FieldsFit v := by
  obtain ⟨base, limit, target, chain⟩ := h
  exact
    { base_granule := base ▸ fit.base_granule
      limit_granule := limit ▸ fit.limit_granule
      ordered := by rw [base, limit]; exact fit.ordered
      kinds := chain ▸ fit.kinds
      translate := by rw [base, limit, chain]; exact fit.translate
      guard := chain ▸ fit.guard
      mirror := by rw [target, chain]; exact fit.mirror }

theorem FieldsFit.settled {w v : Window} (fit : FieldsFit w) (h : SameFields w v) (hs : isDraining v.state = false) :
    WindowFits v :=
  ⟨fit.of_same h, fun c hc => by rw [hc] at hs; cases hs⟩

/-- The state of a window does not matter to what a change makes of it. -/
theorem sameFields_changed (c : PendingChange) (w : Window) (st : WindowState) :
    SameFields (changed c w) (changed c { w with state := st }) := by cases c <;> exact ⟨rfl, rfl, rfl, rfl⟩

theorem sameFields_state (w : Window) (st : WindowState) : SameFields w { w with state := st } := ⟨rfl, rfl, rfl, rfl⟩

theorem WindowsFit.of_slotOnly {i : Fin Config.slots} {s t : State} (hs : WindowsFit s)
    (others : ∀ k, k ≠ i → t.slot k = s.slot k) (self : ∀ w, (t.slot i).window = some w → WindowFits w) : WindowsFit t := by
  intro k w hw
  by_cases hk : k = i
  · subst hk
    exact self w hw
  · rw [others k hk] at hw
    exact hs k w hw

theorem WindowsFit.setWindow {i : Fin Config.slots} {w : Window} {s : State} (hs : WindowsFit s) (fit : WindowFits w) :
    WindowsFit (setWindow i w s) :=
  hs.of_slotOnly (slotOnly_setSlot i _ s).others fun v hv => by
    rw [Machine.setWindow, State.setSlot_slot_self] at hv
    cases hv
    exact fit

theorem WindowsFit.of_dir {s t : State} (hs : WindowsFit s) (h : t.dir = s.dir) : WindowsFit t := by
  unfold WindowsFit State.slot at *
  rw [h]
  exact hs

theorem drainedSlot_fits {x : Slot} (h : ∀ w, x.window = some w → WindowFits w) :
    ∀ w, (drainedSlot x).window = some w → WindowFits w := by
  intro v hv
  unfold drainedSlot at hv
  split at hv
  · next w hw =>
    obtain ⟨fit, pending⟩ := h w hw
    split at hv
    · cases hv
    · next c hc =>
      cases hv
      exact (pending c hc).settled (sameFields_state _ _) rfl
    · exact h v hv
  · exact h v hv

theorem WindowsFit.carryOutPurpose {s : State} (hs : WindowsFit s) (i : Fin Config.slots) : WindowsFit (carryOutPurpose i s) :=
  hs.of_slotOnly (slotOnly_carryOutPurpose i s).others (by
    rw [carryOutPurpose_slot]
    exact drainedSlot_fits (hs i))

theorem windowsFit_reserve {s : State} (hs : WindowsFit s) (c : PendingChange) : WindowsFit (reserve c s) := by
  intro i w hw
  rw [reserve_slot] at hw
  exact hs i w hw

theorem Decision.windowsFit {s t : State} (h : Decision s t) (hs : WindowsFit s) : WindowsFit t := by
  cases h with
  | fallback f => exact hs
  | rights h r a => exact hs
  | filled i w _ _ free settled chain fields =>
    refine hs.of_slotOnly (slotOnly_setSlot i _ s).others fun v hv => ?_
    rw [State.setSlot_slot_self] at hv
    cases hv
    exact fields.settled (sameFields_state _ _) (not_draining_of_settled settled)
  | activated i w _ _ window staged => exact hs.setWindow ((hs i w window).1.settled ⟨rfl, rfl, rfl, rfl⟩ rfl)
  | locked i w _ _ window live =>
    exact hs.setWindow ((hs i w window).1.settled ⟨rfl, rfl, rfl, rfl⟩ (not_draining_of_settled (.inr live)))
  | changed i w c _ _ window settled fits =>
    refine hs.of_slotOnly ((slotOnly_reserve i c s).trans (slotOnly_applyChange i c w _)).others fun v hv => ?_
    rw [applyChange_slot] at hv
    cases hv
    refine (fits.fields (hs i w window).1).settled ⟨rfl, rfl, rfl, rfl⟩ ?_
    rw [changed_state]
    exact not_draining_of_settled settled
  | drains i w c m src e _ _ window live traffic room fits =>
    refine WindowsFit.of_dir (s := setWindow i { w with state := .drainChange c } (reserve c s)) ?_ (startDrain_dir ..)
    have fit := (hs i w window).1
    refine (windowsFit_reserve hs c).setWindow ⟨fit.of_same (sameFields_state w _), fun c' hc => ?_⟩
    cases hc
    exact (fits.fields fit).of_same (sameFields_changed c w _)
  | retires i w m src e _ _ window live =>
    refine WindowsFit.of_dir (s := setWindow i { w with state := .drainRetire } s) ?_ (startDrain_dir ..)
    exact hs.setWindow ⟨(hs i w window).1.of_same (sameFields_state w _), fun c hc => by cases hc⟩
  | freed i w => exact hs.of_slotOnly (slotOnly_freeSlot i s).others fun v hv => by rw [freeSlot_window] at hv; cases hv
  | abandoned j =>
    refine WindowsFit.of_dir (s := restoreWindow j.handle.slot s) ?_ (abandonJob_dir j s)
    by_cases hd : ∃ w, (s.slot j.handle.slot).window = some w ∧ isDraining w.state = true
    · obtain ⟨w, hw, draining⟩ := hd
      refine hs.of_slotOnly (slotOnly_restoreWindow _ s).others fun v hv => ?_
      rw [(restoreWindow_draining hw draining).1] at hv
      cases hv
      exact (hs _ w hw).1.settled (sameFields_state w _) rfl
    · rw [restoreWindow_other fun w hw => by simpa using fun draining => hd ⟨w, hw, draining⟩]
      exact hs

theorem windowsFit_powerOnValues (ph : Phase) (cause : ResetCause) (s : State) : WindowsFit (powerOnValues ph cause s) := by
  intro i w hw
  rw [powerOnValues_window] at hw
  cases hw

/-- Settles O6: a window's fields change by a decision whose checks they pass, or by a pending change that has passed them. -/
theorem windowsFitKept : Obligations.WindowsFitKept := by
  unfold Obligations.WindowsFitKept
  intro s t hs h
  exact step_keeps_directory (fun m hu => hu.of_windows m.windows) Decision.windowsFit
    (fun j u hu => (hu.carryOutPurpose j.handle.slot).of_dir (completeJob_dir j u)) windowsFit_powerOnValues hs h

/-! ### Reserved ranges (R17, R18) -/

/-- The pieces that a slot reserves hold an address. -/
def SlotReserves (x : Slot) (a : Nat) : Prop := ∃ p ∈ slotReserved x, p.first ≤ a ∧ a ≤ p.last

theorem reservedAt_iff (s : State) (i : Fin Config.slots) (a : Nat) : ReservedAt s i a ↔ SlotReserves (s.slot i) a := Iff.rfl

/-- A slot that reserves no address but those it did, or ones that no other slot reserves, stays apart from the others. -/
theorem RangesDisjoint.of_slotOnly {i : Fin Config.slots} {s t : State} (hs : RangesDisjoint s)
    (others : ∀ k, k ≠ i → t.slot k = s.slot k)
    (self : ∀ a, SlotReserves (t.slot i) a → SlotReserves (s.slot i) a ∨ ∀ k, k ≠ i → ¬SlotReserves (s.slot k) a) :
    RangesDisjoint t := by
  have apart : ∀ a k, k ≠ i → SlotReserves (t.slot i) a → ¬SlotReserves (t.slot k) a := by
    intro a k hk hi
    rw [others k hk]
    rcases self a hi with old | new
    · exact fun hold => hk (hs k i a hold old)
    · exact new k hk
  intro k l a hk hl
  rw [reservedAt_iff] at hk hl
  by_cases ki : k = i
  · subst ki
    by_contra ne
    exact apart a l (Ne.symm ne) hk hl
  · by_cases li : l = i
    · subst li
      exact absurd hk (apart a k ki hl)
    · rw [others k ki] at hk
      rw [others l li] at hl
      exact hs k l a hk hl

theorem RangesDisjoint.of_windows {s t : State} (hs : RangesDisjoint s) (h : ∀ i, (t.slot i).window = (s.slot i).window) :
    RangesDisjoint t := by
  have pieces : ∀ i, slotReserved (t.slot i) = slotReserved (s.slot i) := fun i => by
    unfold slotReserved
    rw [h i]
  intro i j a hi hj
  unfold ReservedAt at hi hj
  rw [pieces] at hi hj
  exact hs i j a hi hj

theorem RangesDisjoint.of_dir {s t : State} (hs : RangesDisjoint s) (h : t.dir = s.dir) : RangesDisjoint t :=
  hs.of_windows fun i => by unfold State.slot; rw [h]

theorem not_reserved_of_overlapsOther {s : State} {except : Option (Fin Config.slots)} {q : Span}
    (h : overlapsOther s except q = false) {k : Fin Config.slots} (hk : except ≠ some k) {a : Nat} (first : q.first ≤ a)
    (last : a ≤ q.last) : ¬SlotReserves (s.slot k) a := by
  rintro ⟨p, hp, pFirst, pLast⟩
  have meets : p.meets q = true := by simp [Span.meets]; omega
  have overlaps : overlapsOther s except q = true := by
    unfold overlapsOther
    refine List.any_eq_true.2 ⟨k, List.mem_finRange k, ?_⟩
    rw [Bool.and_eq_true]
    exact ⟨by simpa using hk, List.any_eq_true.2 ⟨p, hp, meets⟩⟩
  rw [h] at overlaps
  cases overlaps

theorem slotReserves_iff {x : Slot} {w : Window} (hw : x.window = some w) (a : Nat) :
    SlotReserves x a ↔ ∃ p ∈ reserved w, p.first ≤ a ∧ a ≤ p.last := by
  unfold SlotReserves slotReserved
  rw [hw]

theorem reserved_settled {w : Window} (h : isDraining w.state = false) : reserved w = [currentSpan w] := by
  unfold reserved
  split
  · next hs => rw [hs] at h; cases h
  · rfl

theorem slotReserves_settled {x : Slot} {w : Window} (hw : x.window = some w) (h : isDraining w.state = false) (a : Nat) :
    SlotReserves x a ↔ (currentSpan w).first ≤ a ∧ a ≤ (currentSpan w).last := by
  rw [slotReserves_iff hw, reserved_settled h]
  simp

theorem currentSpan_mem_reserved (w : Window) : currentSpan w ∈ reserved w := by
  unfold reserved
  split
  · split <;> simp
  · simp

/-- A window's current range is reserved in every state of it (R17). -/
theorem slotReserves_current {x : Slot} {w : Window} (hw : x.window = some w) {a : Nat} (first : (currentSpan w).first ≤ a)
    (last : a ≤ (currentSpan w).last) : SlotReserves x a :=
  (slotReserves_iff hw a).2 ⟨_, currentSpan_mem_reserved w, first, last⟩

theorem modifiedSpan_stays {f : ModifyFields} (h : f.movesRange = false) (w : Window) : modifiedSpan f w = currentSpan w := by
  obtain ⟨base, limit⟩ := Bool.or_eq_false_iff.1 h
  simp only [Option.isSome_eq_false_iff, Option.isNone_iff_eq_none] at base limit
  simp [modifiedSpan, currentSpan, base, limit]

/-- The range that a change gives a window is the one it has, or the new range of a MODIFY. -/
theorem currentSpan_changed (c : PendingChange) (w : Window) :
    currentSpan (changed c w) = currentSpan w ∨
      ∃ f, c = .modify f ∧ f.movesRange = true ∧ currentSpan (changed c w) = modifiedSpan f w := by
  cases c with
  | attach r => exact .inl rfl
  | detach k => exact .inl rfl
  | modify f =>
    have span : currentSpan (changed (.modify f) w) = modifiedSpan f w := rfl
    by_cases hf : f.movesRange = true
    · exact .inr ⟨f, rfl, hf, span⟩
    · exact .inl (span.trans (modifiedSpan_stays (by simpa using hf) w))

/-- While a change is pending, the range it leads to is reserved (R17). -/
theorem slotReserves_pending {x : Slot} {w : Window} (hw : x.window = some w) {c : PendingChange} (hc : w.state = .drainChange c)
    {a : Nat} (first : (currentSpan (changed c w)).first ≤ a) (last : a ≤ (currentSpan (changed c w)).last) :
    SlotReserves x a := by
  rcases currentSpan_changed c w with span | ⟨f, rfl, moves, span⟩
  · rw [span] at first last
    exact slotReserves_current hw first last
  · rw [span] at first last
    refine (slotReserves_iff hw a).2 ⟨modifiedSpan f w, ?_, first, last⟩
    simp [reserved, hc, moves]

theorem drainedSlot_reserves {x : Slot} {a : Nat} (h : SlotReserves (drainedSlot x) a) : SlotReserves x a := by
  unfold drainedSlot at h
  split at h
  · next w hw =>
    split at h
    · obtain ⟨p, hp, _⟩ := h
      cases hp
    · next c hc =>
      obtain ⟨first, last⟩ := (slotReserves_settled rfl rfl a).1 h
      exact slotReserves_pending hw hc first last
    · exact h
  · exact h

theorem RangesDisjoint.carryOutPurpose {s : State} (hs : RangesDisjoint s) (i : Fin Config.slots) :
    RangesDisjoint (carryOutPurpose i s) :=
  hs.of_slotOnly (slotOnly_carryOutPurpose i s).others fun a ha => by
    rw [carryOutPurpose_slot] at ha
    exact .inl (drainedSlot_reserves ha)

/-- What a change makes of a window's range is its own range or one that its check has found apart from every other slot's. -/
theorem ChangeFits.apart {s : State} {i : Fin Config.slots} {w : Window} {c : PendingChange} (fits : ChangeFits s i w c)
    (hw : (s.slot i).window = some w) {a : Nat} (first : (currentSpan (changed c w)).first ≤ a)
    (last : a ≤ (currentSpan (changed c w)).last) :
    SlotReserves (s.slot i) a ∨ ∀ k, k ≠ i → ¬SlotReserves (s.slot k) a := by
  rcases currentSpan_changed c w with span | ⟨f, rfl, moves, span⟩
  · rw [span] at first last
    exact .inl (slotReserves_current hw first last)
  · rw [span] at first last
    exact .inr fun k hk => not_reserved_of_overlapsOther (fits.range f rfl moves)
      (fun e => hk (Option.some.inj e).symm) first last

theorem reserved_pending (w : Window) (c : PendingChange) {p : Span} (hp : p ∈ reserved { w with state := .drainChange c }) :
    p = currentSpan w ∨ p = currentSpan (changed c w) := by
  cases c with
  | attach r => exact .inl (by simpa [reserved, currentSpan] using hp)
  | detach k => exact .inl (by simpa [reserved, currentSpan] using hp)
  | modify f =>
    unfold reserved at hp
    dsimp only at hp
    split at hp
    · rcases List.mem_cons.1 hp with rfl | hp
      · exact .inl rfl
      · exact .inr (List.mem_singleton.1 hp)
    · exact .inl (List.mem_singleton.1 hp)

theorem Decision.rangesDisjoint {s t : State} (h : Decision s t) (hs : RangesDisjoint s) : RangesDisjoint t := by
  cases h with
  | fallback f => exact hs
  | rights h r a => exact hs
  | filled i w _ _ free settled chain fields range =>
    refine hs.of_slotOnly (slotOnly_setSlot i _ s).others fun a ha => .inr fun k _ => ?_
    rw [State.setSlot_slot_self] at ha
    obtain ⟨first, last⟩ := (slotReserves_settled rfl (not_draining_of_settled settled) a).1 ha
    exact not_reserved_of_overlapsOther range (by simp) first last
  | activated i w _ _ window staged =>
    refine hs.of_slotOnly (slotOnly_setSlot i _ s).others fun a ha => .inl ?_
    rw [setWindow, State.setSlot_slot_self] at ha
    obtain ⟨first, last⟩ := (slotReserves_settled rfl rfl a).1 ha
    exact slotReserves_current window first last
  | locked i w _ _ window live =>
    refine hs.of_slotOnly (slotOnly_setSlot i _ s).others fun a ha => .inl ?_
    rw [setWindow, State.setSlot_slot_self] at ha
    obtain ⟨first, last⟩ :=
      (slotReserves_settled (w := { w with locked := true }) rfl (not_draining_of_settled (.inr live)) a).1 ha
    exact slotReserves_current window first last
  | changed i w c _ _ window settled fits =>
    refine hs.of_slotOnly ((slotOnly_reserve i c s).trans (slotOnly_applyChange i c w _)).others fun a ha => ?_
    rw [applyChange_slot] at ha
    obtain ⟨first, last⟩ := (slotReserves_settled rfl (by rw [changed_state]; exact not_draining_of_settled settled) a).1 ha
    exact fits.apart window first last
  | drains i w c m src e _ _ window live traffic room fits =>
    refine RangesDisjoint.of_dir (s := setWindow i { w with state := .drainChange c } (reserve c s)) ?_ (startDrain_dir ..)
    refine hs.of_slotOnly ((slotOnly_reserve i c s).trans (slotOnly_setSlot i _ _)).others fun a ha => ?_
    rw [setWindow, State.setSlot_slot_self] at ha
    obtain ⟨p, hp, first, last⟩ := (slotReserves_iff rfl a).1 ha
    rcases reserved_pending w c hp with rfl | rfl
    · exact .inl (slotReserves_current window first last)
    · exact fits.apart window first last
  | retires i w m src e _ _ window live =>
    refine RangesDisjoint.of_dir (s := setWindow i { w with state := .drainRetire } s) ?_ (startDrain_dir ..)
    refine hs.of_slotOnly (slotOnly_setSlot i _ s).others fun a ha => .inl ?_
    rw [setWindow, State.setSlot_slot_self] at ha
    obtain ⟨p, hp, first, last⟩ := (slotReserves_iff rfl a).1 ha
    rw [List.mem_singleton.1 hp] at first last
    exact slotReserves_current window first last
  | freed i w =>
    refine hs.of_slotOnly (slotOnly_freeSlot i s).others fun a ha => ?_
    obtain ⟨p, hp, _⟩ := ha
    rw [slotReserved, freeSlot_window] at hp
    cases hp
  | abandoned j =>
    refine RangesDisjoint.of_dir (s := restoreWindow j.handle.slot s) ?_ (abandonJob_dir j s)
    by_cases hd : ∃ w, (s.slot j.handle.slot).window = some w ∧ isDraining w.state = true
    · obtain ⟨w, hw, draining⟩ := hd
      refine hs.of_slotOnly (slotOnly_restoreWindow _ s).others fun a ha => .inl ?_
      rw [(restoreWindow_draining hw draining).1] at ha
      obtain ⟨first, last⟩ := (slotReserves_settled rfl rfl a).1 ha
      exact slotReserves_current hw first last
    · rw [restoreWindow_other fun w hw => by simpa using fun draining => hd ⟨w, hw, draining⟩]
      exact hs

theorem rangesDisjoint_powerOnValues (ph : Phase) (cause : ResetCause) (s : State) :
    RangesDisjoint (powerOnValues ph cause s) := by
  intro i j a hi _
  obtain ⟨p, hp, _⟩ := hi
  rw [slotReserved, powerOnValues_window] at hp
  cases hp

/-- Settles O7: the range that a slot comes to reserve is one it reserved before, or has been checked against every other. -/
theorem rangesDisjointKept : Obligations.RangesDisjointKept := by
  unfold Obligations.RangesDisjointKept
  intro s t hs h
  exact step_keeps_directory (fun m hu => hu.of_windows fun i => (m.windows i).1) Decision.rangesDisjoint
    (fun j u hu => (hu.carryOutPurpose j.handle.slot).of_dir (completeJob_dir j u)) rangesDisjoint_powerOnValues hs h

end Sys2Proof.Machine
end

section
/-! PROOFS. The invariants that tie drain jobs, DRAINING windows and TAKEN orders, and what a frozen part keeps. -/

namespace Sys2Proof.Machine

/-! ### Drain jobs and DRAINING windows (R117, R118) -/

theorem DrainsFollowWindows.stands {s t : State} (h : DirectoryStands s t) (hs : DrainsFollowWindows s) :
    DrainsFollowWindows t where
  bound := by rw [h.drains]; exact hs.bound
  distinct := by rw [h.drains]; exact hs.distinct
  followed i w hw draining := by
    rw [h.drains]
    exact hs.followed i w ((h.windows i).1 ▸ hw) draining
  follows j hj := by
    rw [h.drains] at hj
    rw [(h.windows _).1, (h.windows _).2]
    exact hs.follows j hj

/-- The slot holds no DRAINING window. -/
def Settled (x : Slot) : Prop := ∀ w, x.window = some w → isDraining w.state = false

theorem Settled.some {x : Slot} {w : Window} (hw : x.window = some w) (h : isDraining w.state = false) : Settled x := by
  intro v hv
  rw [hw] at hv
  cases hv
  exact h

/-- A slot without a DRAINING window has no job. -/
theorem DrainsFollowWindows.noJob {s : State} (hs : DrainsFollowWindows s) {i : Fin Config.slots} (h : Settled (s.slot i)) :
    ∀ j ∈ s.eng.drains, j.handle.slot ≠ i := by
  rintro j hj rfl
  obtain ⟨w, hw, _, purpose⟩ := hs.follows j hj
  exact absurd (isDraining_of_drainPurpose purpose) (by rw [h w hw]; decide)

/-- A slot settles and its job, if it has one, leaves the list. -/
theorem DrainsFollowWindows.removed {i : Fin Config.slots} {s t : State} (hs : DrainsFollowWindows s)
    (others : ∀ k, k ≠ i → t.slot k = s.slot k) (settles : Settled (t.slot i))
    (drains : t.eng.drains = s.eng.drains.filter fun j => j.handle.slot != i) : DrainsFollowWindows t where
  bound := by
    rw [drains]
    exact (List.length_filter_le ..).trans hs.bound
  distinct := by
    rw [drains]
    exact hs.distinct.sublist ((List.filter_sublist).map _)
  followed k w hw draining := by
    by_cases hk : k = i
    · subst hk
      rw [settles w hw] at draining
      cases draining
    · rw [others k hk] at hw
      obtain ⟨j, hj, rfl⟩ := hs.followed k w hw draining
      rw [drains]
      exact ⟨j, List.mem_filter.2 ⟨hj, by simpa using hk⟩, rfl⟩
  follows j hj := by
    rw [drains, List.mem_filter] at hj
    rw [others _ (by simpa using hj.2)]
    exact hs.follows j hj.1

/-- A slot that had no DRAINING window gets none. -/
theorem DrainsFollowWindows.settled {i : Fin Config.slots} {s t : State} (hs : DrainsFollowWindows s)
    (others : ∀ k, k ≠ i → t.slot k = s.slot k) (before : Settled (s.slot i)) (after : Settled (t.slot i))
    (drains : t.eng.drains = s.eng.drains) : DrainsFollowWindows t := by
  refine hs.removed others after ?_
  rw [drains]
  exact (List.filter_eq_self.2 fun j hj => by simpa using hs.noJob before j hj).symm

/-- A window without a drain comes to drain with a job at the tail of the list. -/
theorem DrainsFollowWindows.joined {i : Fin Config.slots} {s t : State} {w : Window} {j : DrainJob} (hs : DrainsFollowWindows s)
    (room : s.eng.drains.length < Config.drainPlaces) (before : Settled (s.slot i))
    (others : ∀ k, k ≠ i → t.slot k = s.slot k) (window : (t.slot i).window = some w)
    (handle : j.handle = ⟨i, (t.slot i).generation⟩) (purpose : drainPurpose w.state = some j.purpose)
    (drains : t.eng.drains = s.eng.drains ++ [j]) : DrainsFollowWindows t where
  bound := by
    rw [drains, List.length_append, List.length_singleton]
    exact room
  distinct := by
    rw [drains, List.map_append]
    refine hs.distinct.append (List.nodup_singleton _) fun k hk hj => ?_
    obtain ⟨j', hj', rfl⟩ := List.mem_map.1 hk
    refine hs.noJob before j' hj' ?_
    rw [List.mem_singleton.1 hj]
    exact congrArg Handle.slot handle
  followed k v hv draining := by
    rw [drains]
    by_cases hk : k = i
    · exact ⟨j, by simp, by rw [handle, hk]⟩
    · rw [others k hk] at hv
      obtain ⟨j', hj', slot⟩ := hs.followed k v hv draining
      exact ⟨j', List.mem_append_left _ hj', slot⟩
  follows j' hj' := by
    rw [drains] at hj'
    rcases List.mem_append.1 hj' with old | new
    · rw [others _ (hs.noJob before j' old)]
      exact hs.follows j' old
    · rw [List.mem_singleton.1 new, handle]
      exact ⟨w, window, rfl, purpose⟩

theorem settled_drainedSlot (x : Slot) : Settled (drainedSlot x) := by
  intro v hv
  unfold drainedSlot at hv
  split at hv
  · next w hw =>
    split at hv
    · cases hv
    · cases hv
      rfl
    · next retires changes =>
      rw [hw] at hv
      cases hv
      cases hs : v.state with
      | staged => rfl
      | live => rfl
      | drainRetire => exact absurd hs retires
      | drainChange c => exact absurd hs (changes c)
  · next none => rw [none] at hv; cases hv

theorem slot_of_dir {s t : State} (h : t.dir = s.dir) (i : Fin Config.slots) : t.slot i = s.slot i := by
  unfold State.slot
  rw [h]

theorem completeJob_drains (j : DrainJob) (s : State) :
    (completeJob j s).eng.drains = s.eng.drains.filter fun k => k.handle.slot != j.handle.slot := by
  unfold completeJob
  rw [closeOrder_drains]
  change ((carryOutPurpose j.handle.slot s).eng.drains.filter fun k => k.handle.slot != j.handle.slot) = _
  rw [carryOutPurpose_eng]

theorem completeJob_slot (j : DrainJob) (s : State) (k : Fin Config.slots) :
    (completeJob j s).slot k = if k = j.handle.slot then drainedSlot (s.slot k) else s.slot k := by
  rw [slot_of_dir (completeJob_dir j s)]
  split
  · next hk => rw [hk, carryOutPurpose_slot]
  · next hk => exact (slotOnly_carryOutPurpose _ s).others k hk

theorem DrainsFollowWindows.completeJob {s : State} (hs : DrainsFollowWindows s) (j : DrainJob) :
    DrainsFollowWindows (completeJob j s) :=
  hs.removed (fun k hk => by rw [completeJob_slot, if_neg hk])
    (by rw [completeJob_slot, if_pos rfl]; exact settled_drainedSlot _) (completeJob_drains j s)

theorem abandonJob_drains (j : DrainJob) (s : State) :
    (abandonJob j s).eng.drains = s.eng.drains.filter fun k => k.handle.slot != j.handle.slot := by
  rw [abandonJob_eq, closeOrder_drains]
  change ((restoreWindow j.handle.slot s).eng.drains.filter fun k => k.handle.slot != j.handle.slot) = _
  rw [(slotOnly_restoreWindow j.handle.slot s).rest]

theorem settled_restoreWindow (i : Fin Config.slots) (s : State) : Settled ((restoreWindow i s).slot i) := by
  by_cases hd : ∃ w, (s.slot i).window = some w ∧ isDraining w.state = true
  · obtain ⟨w, hw, draining⟩ := hd
    rw [(restoreWindow_draining hw draining).1]
    exact .some rfl rfl
  · have none : Settled (s.slot i) := fun w hw => by simpa using fun draining => hd ⟨w, hw, draining⟩
    rw [restoreWindow_other none]
    exact none

theorem abandonJob_slot_ne {j : DrainJob} {s : State} {k : Fin Config.slots} (hk : k ≠ j.handle.slot) :
    (abandonJob j s).slot k = s.slot k := by
  rw [slot_of_dir (abandonJob_dir j s)]
  exact (slotOnly_restoreWindow _ s).others k hk

theorem settled_abandonJob (j : DrainJob) (s : State) : Settled ((abandonJob j s).slot j.handle.slot) := by
  rw [slot_of_dir (abandonJob_dir j s)]
  exact settled_restoreWindow _ _

theorem Decision.drainsFollow {s t : State} (h : Decision s t) (hs : DrainsFollowWindows s) : DrainsFollowWindows t := by
  cases h with
  | fallback f => exact DrainsFollowWindows.stands (s := s) ⟨fun _ => ⟨rfl, rfl⟩, rfl, rfl⟩ hs
  | rights h r a => exact DrainsFollowWindows.stands (s := s) ⟨fun _ => ⟨rfl, rfl⟩, rfl, rfl⟩ hs
  | filled i w _ _ free settled chain =>
    refine hs.settled (slotOnly_setSlot i _ s).others (fun v hv => by rw [free] at hv; cases hv) ?_ rfl
    rw [State.setSlot_slot_self]
    exact .some rfl (not_draining_of_settled settled)
  | activated i w _ _ window staged =>
    refine hs.settled (slotOnly_setSlot i _ s).others (.some window (by rw [staged]; rfl)) ?_ rfl
    rw [setWindow, State.setSlot_slot_self]
    exact .some rfl rfl
  | locked i w _ _ window live =>
    refine hs.settled (slotOnly_setSlot i _ s).others (.some window (by rw [live]; rfl)) ?_ rfl
    rw [setWindow, State.setSlot_slot_self]
    exact .some rfl (not_draining_of_settled (.inr live))
  | changed i w c _ _ window settled fits =>
    have draining := not_draining_of_settled settled
    refine hs.settled ((slotOnly_reserve i c s).trans (slotOnly_applyChange i c w _)).others (.some window draining) ?_ ?_
    · rw [applyChange_slot]
      exact .some rfl (by rw [changed_state]; exact draining)
    · rw [applyChange_eng, reserve_eng]
  | drains i w c m src e _ _ window live traffic room fits =>
    refine hs.joined (w := { w with state := .drainChange c }) room (.some window (by rw [live]; rfl)) (fun k hk => ?_) ?_ ?_ rfl
      (j := ⟨⟨i, (s.slot i).generation⟩, .change, m, src, e.sequence, e.code, s.eng.drainLimit⟩) ?_
    · rw [startDrain_slot, if_neg hk, reserve_slot]
    · rw [startDrain_slot, if_pos rfl]
    · rw [startDrain_slot, if_pos rfl, reserve_slot]
    · unfold startDrain takeOrder
      rw [reserve_slot, ← reserve_eng c s]
      rfl
  | retires i w m src e _ _ window live traffic room =>
    refine hs.joined (w := { w with state := .drainRetire }) room (.some window (by rw [live]; rfl)) (fun k hk => ?_) ?_ ?_ rfl
      (j := ⟨⟨i, (s.slot i).generation⟩, .retire, m, src, e.sequence, e.code, s.eng.drainLimit⟩) rfl
    · rw [startDrain_slot, if_neg hk]
    · rw [startDrain_slot, if_pos rfl]
    · rw [startDrain_slot, if_pos rfl]
  | freed i w _ _ window settled =>
    refine hs.settled (slotOnly_freeSlot i s).others
      (.some window (not_draining_of_settled (settled.imp_right And.left)))
      (fun v hv => by rw [freeSlot_window] at hv; cases hv) (by rw [freeSlot_eng])
  | abandoned j => exact hs.removed (fun k hk => abandonJob_slot_ne hk) (settled_abandonJob j s) (abandonJob_drains j s)

theorem drainsFollow_powerOnValues (ph : Phase) (cause : ResetCause) (s : State) :
    DrainsFollowWindows (powerOnValues ph cause s) where
  bound := Nat.zero_le _
  distinct := List.nodup_nil
  followed i w hw := by rw [powerOnValues_window] at hw; cases hw
  follows j hj := by cases hj

/-- Settles O9: a drain starts with its job, and its job leaves the list as its window settles. -/
theorem drainsFollowWindowsKept : Obligations.DrainsFollowWindowsKept := by
  unfold Obligations.DrainsFollowWindowsKept
  intro s t hs h
  exact step_keeps_directory DrainsFollowWindows.stands Decision.drainsFollow (fun j u hu => hu.completeJob j)
    drainsFollow_powerOnValues hs h

/-! ### Traffic of DRAINING windows (R23, R122) -/

/-- The jobs that are left when a list of jobs is gone through: those whose windows have traffic, and those not listed. -/
theorem completeListed_drains (l : List DrainJob) (s : State) :
    (completeListed l s).eng.drains = s.eng.drains.filter fun k =>
      !(l.any fun j => j.handle.slot == k.handle.slot && (s.slot j.handle.slot).count == 0) := by
  induction l generalizing s with
  | nil => exact (List.filter_eq_self.2 fun _ _ => rfl).symm
  | cons j l ih =>
    change (completeListed l (if (s.slot j.handle.slot).count = 0 then completeJob j s else s)).eng.drains = _
    rw [ih]
    split
    · next zero =>
      rw [completeJob_drains, List.filter_filter]
      refine List.filter_congr fun k _ => ?_
      simp only [(drainsEnd_completeJob j s).counts, List.any_cons, zero, beq_self_eq_true, Bool.and_true, Bool.not_or, bne]
      rw [Bool.and_comm, BEq.comm]
    · next busy =>
      refine List.filter_congr fun k _ => ?_
      simp [busy]

/-- Exactly the jobs whose windows have traffic are left (R122). -/
theorem completeDrains_drains (s : State) :
    (completeDrains s).eng.drains = s.eng.drains.filter fun k => (s.slot k.handle.slot).count != 0 := by
  rw [completeDrains_eq, completeListed_drains]
  refine List.filter_congr fun k hk => ?_
  rw [Bool.eq_iff_iff]
  constructor
  · intro none
    rw [bne_iff_ne]
    intro zero
    have some : (s.eng.drains.any fun j => j.handle.slot == k.handle.slot && (s.slot j.handle.slot).count == 0) = true :=
      List.any_eq_true.2 ⟨k, hk, by simp [zero]⟩
    rw [some] at none
    cases none
  · intro busy
    rw [bne_iff_ne] at busy
    rw [Bool.not_eq_true', List.any_eq_false]
    intro j _ both
    rw [Bool.and_eq_true, beq_iff_eq, beq_iff_eq] at both
    exact busy (both.1 ▸ both.2)

/-- After the completions of an event no DRAINING window is without traffic. -/
theorem drainingHasTraffic_completeDrains {s : State} (hs : DrainsFollowWindows s) : DrainingHasTraffic (completeDrains s) := by
  intro i w hw draining
  have follows := completeDrains_keeps (P := DrainsFollowWindows) (fun j _ _ hu => hu.completeJob j) s hs
  obtain ⟨j, hj, rfl⟩ := follows.followed i w hw draining
  rw [completeDrains_drains, List.mem_filter] at hj
  rw [(drainsEnd_completeDrains s).counts]
  simpa using hj.2

theorem raiseCount_count_le {s u : State} (dir : u.dir = s.dir) (r : Route) (i : Fin Config.slots) :
    (s.slot i).count ≤ ((raiseCount r u).slot i).count := by
  rw [← slot_of_dir dir]
  cases r with
  | fallback => exact Nat.le_refl _
  | window h =>
    change _ ≤ ((u.setSlot h.slot _).slot i).count
    rw [State.setSlot_slot]
    split
    · next e => subst e; exact Nat.le_succ _
    · exact Nat.le_refl _

theorem Flow.count_le {s t : State} (h : Flow s t) (i : Fin Config.slots) : (s.slot i).count ≤ (t.slot i).count := by
  cases h with
  | fetched h tag n hop j =>
    unfold forwardFetch
    dsimp only
    exact raiseCount_count_le (by rfl) hop.route i
  | posted h d hop g =>
    unfold placePost
    exact raiseCount_count_le (by rfl) hop.route i

/-- A settled slot joins, or a slot keeps its count: no window comes to drain without traffic. -/
theorem DrainingHasTraffic.of_slotOnly {i : Fin Config.slots} {s t : State} (hs : DrainingHasTraffic s)
    (others : ∀ k, k ≠ i → t.slot k = s.slot k) (self : Settled (t.slot i) ∨ (t.slot i).count ≠ 0) : DrainingHasTraffic t := by
  intro k w hw draining
  by_cases hk : k = i
  · subst hk
    rcases self with settled | traffic
    · rw [settled w hw] at draining
      cases draining
    · exact traffic
  · rw [others k hk] at hw ⊢
    exact hs k w hw draining

theorem Decision.traffic {s t : State} (h : Decision s t) (hs : DrainingHasTraffic s) : DrainingHasTraffic t := by
  cases h with
  | fallback f => exact hs
  | rights h r a => exact hs
  | filled i w _ _ free settled chain =>
    refine hs.of_slotOnly (slotOnly_setSlot i _ s).others (.inl ?_)
    rw [State.setSlot_slot_self]
    exact .some rfl (not_draining_of_settled settled)
  | activated i w _ _ window staged =>
    refine hs.of_slotOnly (slotOnly_setSlot i _ s).others (.inl ?_)
    rw [setWindow, State.setSlot_slot_self]
    exact .some rfl rfl
  | locked i w _ _ window live =>
    refine hs.of_slotOnly (slotOnly_setSlot i _ s).others (.inl ?_)
    rw [setWindow, State.setSlot_slot_self]
    exact .some rfl (not_draining_of_settled (.inr live))
  | changed i w c _ _ window settled fits =>
    refine hs.of_slotOnly ((slotOnly_reserve i c s).trans (slotOnly_applyChange i c w _)).others (.inl ?_)
    rw [applyChange_slot]
    exact .some rfl (by rw [changed_state]; exact not_draining_of_settled settled)
  | drains i w c m src e _ _ window live traffic =>
    refine hs.of_slotOnly (i := i) (fun k hk => by rw [startDrain_slot, if_neg hk, reserve_slot]) (.inr ?_)
    rw [startDrain_slot, if_pos rfl, reserve_slot]
    exact traffic
  | retires i w m src e _ _ window live traffic =>
    refine hs.of_slotOnly (i := i) (fun k hk => by rw [startDrain_slot, if_neg hk]) (.inr ?_)
    rw [startDrain_slot, if_pos rfl]
    exact traffic
  | freed i w =>
    exact hs.of_slotOnly (slotOnly_freeSlot i s).others (.inl fun v hv => by rw [freeSlot_window] at hv; cases hv)
  | abandoned j => exact hs.of_slotOnly (fun k hk => abandonJob_slot_ne hk) (.inl (settled_abandonJob j s))

/-- Both invariants of drain jobs and their traffic. -/
def DrainsRun (s : State) : Prop := DrainsFollowWindows s ∧ DrainingHasTraffic s

theorem DrainsRun.of_dir {s t : State} (hs : DrainsRun s) (dir : t.dir = s.dir) (drains : t.eng.drains = s.eng.drains) :
    DrainsRun t :=
  ⟨hs.1.stands (.of_dir dir drains), fun i => by rw [slot_of_dir dir]; exact hs.2 i⟩

theorem movesKeep_drainsRun : MovesKeep DrainsRun where
  quiet h hs := hs.of_dir h.same.dir h.same.drains
  queue h hs := hs.of_dir h.dir h.stand.drains
  flow h hs :=
    ⟨hs.1.stands h.stand.directory, fun i w hw draining zero =>
      hs.2 i w ((h.stand.windows i).1 ▸ hw) draining (Nat.le_zero.1 (zero ▸ h.count_le i))⟩
  decision h hs := ⟨h.drainsFollow hs.1, h.traffic hs.2⟩
  drains h hs :=
    have follows := hs.1.stands h.directory
    ⟨completeDrains_keeps (fun j _ _ hu => hu.completeJob j) _ follows, drainingHasTraffic_completeDrains follows⟩

theorem drainingHasTraffic_powerOnValues (ph : Phase) (cause : ResetCause) (s : State) :
    DrainingHasTraffic (powerOnValues ph cause s) := by
  intro i w hw
  rw [powerOnValues_window] at hw
  cases hw

/-- Settles O11: counts fall only where the completion of drains follows. -/
theorem drainingHasTrafficKept : Obligations.DrainingHasTrafficKept := by
  unfold Obligations.DrainingHasTrafficKept
  intro s t follows traffic h
  have both : DrainsRun t := step_keeps_of_notify movesKeep_drainsRun
    (fun _ _ _ hu => hu.of_dir (notify_dir ..) (by rw [notify_eng]))
    (fun ph cause u _ => ⟨drainsFollow_powerOnValues ph cause u, drainingHasTraffic_powerOnValues ph cause u⟩)
    (fun _ _ hu => hu.of_dir rfl rfl) ⟨follows, traffic⟩ h
  exact both.2

end Sys2Proof.Machine
end

section
/-! PROOFS. TAKEN order entries and their jobs, what a frozen part keeps, and occasions. -/

namespace Sys2Proof.Machine

/-! ### TAKEN order entries (R75, R76, R118) -/

/-- Slot, sequence number and code of a TAKEN entry. -/
def takenKey (e : OrderEntry) : Option (Fin Config.slots × Byte × Byte) :=
  match e.state with
  | .taken i => some (i, e.sequence, e.code)
  | _ => none

/-- What the TAKEN entries of a source's queue name, in its order. -/
def takenKeys (s : State) (src : Source) : List (Fin Config.slots × Byte × Byte) := (s.orders src).filterMap takenKey

theorem takenKey_eq_some_iff (e : OrderEntry) (x : Fin Config.slots × Byte × Byte) :
    takenKey e = some x ↔ e.state = .taken x.1 ∧ e.sequence = x.2.1 ∧ e.code = x.2.2 := by
  obtain ⟨i, q, c⟩ := x
  unfold takenKey
  split
  · next k hk => simp [hk]
  · next none =>
    simp only [reduceCtorEq, false_iff, not_and]
    exact fun hk => absurd hk (none i)

theorem takenKey_eq_none {e : OrderEntry} (h : ∀ i, e.state ≠ .taken i) : takenKey e = none := by
  unfold takenKey
  split
  · next k hk => exact absurd hk (h k)
  · rfl

theorem mem_takenKeys {s : State} {src : Source} {x : Fin Config.slots × Byte × Byte} :
    x ∈ takenKeys s src ↔ ∃ e ∈ s.orders src, e.state = .taken x.1 ∧ e.sequence = x.2.1 ∧ e.code = x.2.2 := by
  simp only [takenKeys, List.mem_filterMap, takenKey_eq_some_iff]

theorem countP_takenKeys (s : State) (src : Source) (i : Fin Config.slots) :
    (takenKeys s src).countP (fun x => x.1 == i) = (s.orders src).countP (isTakenFor i) := by
  unfold takenKeys
  rw [List.countP_filterMap]
  refine List.countP_congr fun e _ => ?_
  rw [isTakenFor_iff]
  unfold takenKey
  split
  · next k hk => simp [hk]
  · next none => simpa using none i

/-- The key of a job's TAKEN entry. -/
def jobKey (j : DrainJob) : Fin Config.slots × Byte × Byte := (j.handle.slot, j.sequence, j.code)

/-- The invariant speaks of the keys alone. -/
theorem takenFollowsDrains_iff (s : State) :
    TakenFollowsDrains s ↔
      (∀ j ∈ s.eng.drains, jobKey j ∈ takenKeys s j.source) ∧
        (∀ src i, (takenKeys s src).countP (fun x => x.1 == i) ≤ 1) ∧
          ∀ src, ∀ x ∈ takenKeys s src, ∃ j ∈ s.eng.drains, j.handle.slot = x.1 ∧ j.source = src := by
  constructor
  · intro h
    refine ⟨fun j hj => mem_takenKeys.2 (h.held j hj), fun src i => ?_, fun src x hx => ?_⟩
    · rw [countP_takenKeys]
      exact h.once src i
    · obtain ⟨e, he, state, _⟩ := mem_takenKeys.1 hx
      exact h.holder src e he _ state
  · rintro ⟨held, once, holder⟩
    refine ⟨fun j hj => mem_takenKeys.1 (held j hj), fun src i => ?_, fun src e he i hi => ?_⟩
    · rw [← countP_takenKeys]
      exact once src i
    · exact holder src (i, e.sequence, e.code) (mem_takenKeys.2 ⟨e, he, hi, rfl, rfl⟩)

theorem TakenFollowsDrains.same {s t : State} (hs : TakenFollowsDrains s) (drains : t.eng.drains = s.eng.drains)
    (keys : ∀ src, takenKeys t src = takenKeys s src) : TakenFollowsDrains t := by
  rw [takenFollowsDrains_iff] at hs ⊢
  rw [drains]
  simp only [keys]
  exact hs

/-- The one job of a slot leaves the list, and the first entry that its source has TAKEN for the slot is TAKEN no more. -/
theorem TakenFollowsDrains.removed {s t : State} {j : DrainJob} (hs : TakenFollowsDrains s)
    (distinct : (s.eng.drains.map fun k => k.handle.slot).Nodup) (hj : j ∈ s.eng.drains)
    (drains : t.eng.drains = s.eng.drains.filter fun k => k.handle.slot != j.handle.slot)
    (keys : ∀ src, takenKeys t src =
      if src = j.source then (takenKeys s src).eraseP (fun x => x.1 == j.handle.slot) else takenKeys s src) :
    TakenFollowsDrains t := by
  rw [takenFollowsDrains_iff] at hs ⊢
  obtain ⟨held, once, holder⟩ := hs
  have only : ∀ k ∈ s.eng.drains, k.handle.slot = j.handle.slot → k = j := fun k hk e => List.inj_on_of_nodup_map distinct hk hj e
  have sublist : ∀ src, (takenKeys t src).Sublist (takenKeys s src) := fun src => by
    rw [keys]
    split
    · exact List.eraseP_sublist
    · exact List.Sublist.refl _
  refine ⟨fun k hk => ?_, fun src i => ((sublist src).countP_le).trans (once src i), fun src x hx => ?_⟩
  · rw [drains, List.mem_filter, bne_iff_ne] at hk
    have old := held k hk.1
    rw [keys]
    split
    · exact (List.mem_eraseP_of_neg (by simpa [jobKey] using hk.2)).2 old
    · exact old
  · obtain ⟨k, hk, slot, source⟩ := holder src x ((sublist src).subset hx)
    have other : x.1 ≠ j.handle.slot := by
      intro e
      rw [e] at slot
      rw [keys, if_pos (by rw [← source, only k hk slot])] at hx
      obtain ⟨y, l, l', _, py, split, erased⟩ := List.exists_of_eraseP (p := fun x => x.1 == j.handle.slot)
        (List.eraseP_sublist.subset hx) (by simpa using e)
      have count := once src j.handle.slot
      rw [split, List.countP_append, List.countP_cons, if_pos py] at count
      rw [erased] at hx
      have some : 0 < (l ++ l').countP (fun x => x.1 == j.handle.slot) := List.countP_pos_iff.2 ⟨x, hx, by simpa using e⟩
      rw [List.countP_append] at some
      omega
    rw [drains]
    exact ⟨k, List.mem_filter.2 ⟨hk, by simpa [slot] using other⟩, slot, source⟩

/-- A job joins with the entry that its source has TAKEN for it. -/
theorem TakenFollowsDrains.joined {s t : State} {j : DrainJob} (hs : TakenFollowsDrains s)
    (noJob : ∀ k ∈ s.eng.drains, k.handle.slot ≠ j.handle.slot) (drains : t.eng.drains = s.eng.drains ++ [j])
    (self : (takenKeys t j.source).Perm (jobKey j :: takenKeys s j.source))
    (others : ∀ src, src ≠ j.source → takenKeys t src = takenKeys s src) : TakenFollowsDrains t := by
  rw [takenFollowsDrains_iff] at hs ⊢
  obtain ⟨held, once, holder⟩ := hs
  have fresh : ∀ src, (takenKeys s src).countP (fun x => x.1 == j.handle.slot) = 0 := fun src => by
    refine List.countP_eq_zero.2 fun x hx e => ?_
    obtain ⟨k, hk, slot, _⟩ := holder src x hx
    exact noJob k hk (slot.trans (by simpa using e))
  rw [drains]
  refine ⟨fun k hk => ?_, fun src i => ?_, fun src x hx => ?_⟩
  · rcases List.mem_append.1 hk with old | new
    · by_cases e : k.source = j.source
      · rw [e]
        exact self.mem_iff.2 (List.mem_cons_of_mem _ (e ▸ held k old))
      · rw [others _ e]
        exact held k old
    · rw [List.mem_singleton.1 new]
      exact self.mem_iff.2 List.mem_cons_self
  · by_cases e : src = j.source
    · rw [e, self.countP_eq, List.countP_cons]
      by_cases hi : j.handle.slot = i
      · subst hi
        rw [fresh]
        simp [jobKey]
      · simpa [jobKey, hi] using once j.source i
    · rw [others _ e]
      exact once src i
  · have old : x ∈ takenKeys s src → ∃ k ∈ s.eng.drains ++ [j], k.handle.slot = x.1 ∧ k.source = src := fun hx => by
      obtain ⟨k, hk, e⟩ := holder src x hx
      exact ⟨k, List.mem_append_left _ hk, e⟩
    by_cases e : src = j.source
    · subst e
      rcases List.mem_cons.1 (self.mem_iff.1 hx) with rfl | hx
      · exact ⟨j, by simp, rfl, rfl⟩
      · exact old hx
    · rw [others _ e] at hx
      exact old hx

theorem orders_setOrders (s : State) (src k : Source) (q : List OrderEntry) :
    (s.setOrders src q).orders k = if k = src then q else s.orders k := PerSource.get_set _ _ _ _

theorem takenKeys_eraseP (i : Fin Config.slots) (q : List OrderEntry) :
    (q.eraseP (isTakenFor i)).filterMap takenKey = (q.filterMap takenKey).eraseP fun x => x.1 == i := by
  rw [List.eraseP_filterMap]
  congr 2
  funext e
  rw [Bool.eq_iff_iff, isTakenFor_iff]
  cases hk : takenKey e with
  | some x => simp [((takenKey_eq_some_iff e x).1 hk).1]
  | none =>
    simp only [Bool.false_eq_true, iff_false]
    intro hi
    rw [(takenKey_eq_some_iff e (i, e.sequence, e.code)).2 ⟨hi, rfl, rfl⟩] at hk
    cases hk

/-- An entry that a map drops can be replaced by one that it drops, or erased. -/
theorem filterMap_updateFirst {α β : Type} {p : α → Bool} {g : α → α} {f : α → Option β} (new : ∀ x, p x = true → f (g x) = none)
    (l : List α) : (updateFirst p g l).filterMap f = (l.eraseP p).filterMap f := by
  induction l with
  | nil => rfl
  | cons x l ih =>
    unfold updateFirst
    by_cases hx : p x = true
    · rw [if_pos hx, List.eraseP_cons_of_pos hx, List.filterMap_cons_none (new x hx)]
    · rw [if_neg hx, List.eraseP_cons_of_neg hx, List.filterMap_cons, List.filterMap_cons, ih]

theorem filterMap_eraseP_of_none {α β : Type} {p : α → Bool} {f : α → Option β} (none : ∀ x, p x = true → f x = none)
    (l : List α) : (l.eraseP p).filterMap f = l.filterMap f := by
  induction l with
  | nil => rfl
  | cons x l ih =>
    by_cases hx : p x = true
    · rw [List.eraseP_cons_of_pos hx, List.filterMap_cons_none (none x hx)]
    · rw [List.eraseP_cons_of_neg hx, List.filterMap_cons, List.filterMap_cons, ih]

theorem takenKeys_closeOrder (src k : Source) (i : Fin Config.slots) (st : Status) (s : State) :
    takenKeys (closeOrder src i st s) k =
      if k = src then (takenKeys s k).eraseP (fun x => x.1 == i) else takenKeys s k := by
  have erased : ((s.orders src).eraseP (isTakenFor i)).filterMap takenKey = (takenKeys s src).eraseP fun x => x.1 == i :=
    takenKeys_eraseP i _
  have answered : (updateFirst (isTakenFor i) (fun e => { e with state := .answered }) (s.orders src)).filterMap takenKey =
      (takenKeys s src).eraseP fun x => x.1 == i := by
    rw [filterMap_updateFirst fun _ _ => rfl, erased]
  have written : ∀ q : List OrderEntry, q.filterMap takenKey = ((takenKeys s src).eraseP fun x => x.1 == i) →
      ((s.setOrders src q).orders k).filterMap takenKey =
        if k = src then (takenKeys s k).eraseP (fun x => x.1 == i) else takenKeys s k := fun q hq => by
    rw [orders_setOrders]
    split
    · next e => rw [hq, e]
    · rfl
  unfold closeOrder
  split
  · split
    · exact written _ erased
    · exact written _ answered
  · next none =>
    split
    · next e =>
      subst e
      refine (List.eraseP_of_forall_not fun x hx => ?_).symm
      obtain ⟨e, he, taken, _⟩ := mem_takenKeys.1 hx
      have notTaken := List.find?_eq_none.1 none e he
      rw [isTakenFor_iff, taken] at notTaken
      simpa using notTaken
    · rfl

theorem isTaken_iff (e : OrderEntry) : isTaken e = true ↔ ∃ i, e.state = .taken i := by
  unfold isTaken
  split
  · next i hi => simp [hi]
  · next none => simpa using none

theorem takenKey_silenced (q : List OrderEntry) : (silenced q).filterMap takenKey = q.filterMap takenKey := by
  unfold silenced
  rw [List.filterMap_map, List.filterMap_filter]
  refine List.filterMap_congr fun e _ => ?_
  split
  · rfl
  · next none =>
    refine (takenKey_eq_none fun i hi => none ?_).symm
    exact (isTaken_iff e).2 ⟨i, hi⟩

theorem takenKeys_congr {s t : State} (h : t.eng.orders = s.eng.orders) (src : Source) : takenKeys t src = takenKeys s src := by
  unfold takenKeys State.orders
  rw [h]

theorem takenKeys_setOrders {s : State} {src : Source} {q : List OrderEntry}
    (h : q.filterMap takenKey = (s.orders src).filterMap takenKey) (k : Source) :
    takenKeys (s.setOrders src q) k = takenKeys s k := by
  unfold takenKeys
  rw [orders_setOrders]
  split
  · next e => rw [h, e]
  · rfl

theorem releaseSent_takenKeys (src k : Source) (pkt : ReturnPacket) (s : State) :
    takenKeys (releaseSent src pkt s) k = takenKeys s k := by
  unfold releaseSent
  split
  · split <;> rfl
  · next q _ _ _ =>
    split
    · refine takenKeys_setOrders (filterMap_eraseP_of_none (fun e he => ?_) _) k
      refine takenKey_eq_none fun i hi => ?_
      simp [isAnsweredAs, hi] at he
    · rfl
  · rfl
  · rfl

/-- Moves of queues leave TAKEN entries alone, but that they may become silent. -/
theorem QueueMove.takenKeys {s t : State} (h : QueueMove s t) (k : Source) : takenKeys t k = takenKeys s k := by
  cases h with
  | order src e _ up room queued =>
    refine takenKeys_setOrders (s := spendOrderCredit src s) ?_ k
    rw [List.filterMap_append]
    have none : takenKey e = none := takenKey_eq_none fun i hi => by rw [queued] at hi; cases hi
    simp only [List.filterMap_cons_none none, List.filterMap_nil, List.append_nil]
    rfl
  | sent src pkt => exact releaseSent_takenKeys src k pkt _
  | hostDown h l n =>
    rw [endHostSession_eq]
    exact takenKeys_setOrders (s := s) (takenKey_silenced _) k
  | mgmtDown l n =>
    rw [endMgmtSession_eq]
    exact takenKeys_setOrders (s := s) (takenKey_silenced _) k
  | starts p => cases p <;> rfl
  | flushed h => exact takenKeys_congr (by rw [flushIngress_eng]) k
  | answered src e st rs =>
    refine takenKeys_setOrders (s := s) ?_ k
    rw [filterMap_updateFirst fun _ _ => rfl]
    exact filterMap_eraseP_of_none (fun e he => takenKey_eq_none fun i hi => by simp [isQueued, hi] at he) _
  | _ => rfl

theorem Ebb.eng {s t : State} (h : Ebb s t) : t.eng = s.eng := by
  cases h with
  | left i w st d => exact (ends_leaveWaiting i st d s).eng
  | lost picks g => exact (ends_removePosts picks g s).eng
  | delivered g pkt rest => exact (lowerCountOf_spec pkt _).ends.eng

/-- The oldest QUEUED entry becomes TAKEN: one key joins. -/
theorem takenKeys_takeOrder {s : State} {src : Source} {e : OrderEntry} (oldest : oldestQueued s src = some e)
    (i : Fin Config.slots) (k : Source) :
    (takenKeys (takeOrder src i s) src).Perm ((i, e.sequence, e.code) :: takenKeys s src) ∧
      (k ≠ src → takenKeys (takeOrder src i s) k = takenKeys s k) := by
  obtain ⟨queued, older, newer, hq, ho⟩ := List.find?_eq_some_iff_append.1 oldest
  constructor
  · unfold takenKeys takeOrder
    have none : takenKey e = none := takenKey_eq_none fun i hi => by simp [isQueued, hi] at queued
    rw [orders_setOrders, if_pos rfl, hq, updateFirst_append _ _ _ _ _ (fun y hy => by simpa using ho y hy) queued,
      List.filterMap_append, List.filterMap_append, List.filterMap_cons_none none,
      List.filterMap_cons_some (f := takenKey) (b := (i, e.sequence, e.code)) rfl]
    exact List.perm_middle
  · intro hk
    unfold takenKeys takeOrder
    rw [orders_setOrders, if_neg hk]

theorem completeJob_takenKeys (j : DrainJob) (s : State) (k : Source) :
    takenKeys (completeJob j s) k =
      if k = j.source then (takenKeys s k).eraseP (fun x => x.1 == j.handle.slot) else takenKeys s k := by
  have before : takenKeys (removeJob j.handle.slot (carryOutPurpose j.handle.slot s)) k = takenKeys s k :=
    takenKeys_congr (by rw [← carryOutPurpose_eng j.handle.slot s]; rfl) k
  unfold completeJob
  rw [takenKeys_closeOrder, before]

theorem abandonJob_takenKeys (j : DrainJob) (s : State) (k : Source) :
    takenKeys (abandonJob j s) k =
      if k = j.source then (takenKeys s k).eraseP (fun x => x.1 == j.handle.slot) else takenKeys s k := by
  have before : takenKeys (removeJob j.handle.slot (restoreWindow j.handle.slot s)) k = takenKeys s k :=
    takenKeys_congr (by
      change (restoreWindow j.handle.slot s).eng.orders = s.eng.orders
      rw [(slotOnly_restoreWindow j.handle.slot s).rest]) k
  rw [abandonJob_eq, takenKeys_closeOrder, before]

/-- Completions keep a property if the completion of a job of the list does, its window being without traffic. -/
theorem completeListed_keeps {P : State → Prop}
    (job : ∀ j s, j ∈ s.eng.drains → (s.slot j.handle.slot).count = 0 → P s → P (completeJob j s)) (l : List DrainJob)
    (distinct : (l.map fun j => j.handle.slot).Nodup) (s : State) (listed : ∀ j ∈ l, j ∈ s.eng.drains) (hs : P s) :
    P (completeListed l s) := by
  induction l generalizing s with
  | nil => exact hs
  | cons j l ih =>
    rw [List.map_cons, List.nodup_cons] at distinct
    change P (completeListed l (if (s.slot j.handle.slot).count = 0 then completeJob j s else s))
    have rest : ∀ k ∈ l, k ∈ s.eng.drains := fun k hk => listed k (List.mem_cons_of_mem _ hk)
    split
    · next zero =>
      refine ih distinct.2 _ (fun k hk => ?_) (job j s (listed j List.mem_cons_self) zero hs)
      rw [completeJob_drains, List.mem_filter, bne_iff_ne]
      exact ⟨rest k hk, fun e => distinct.1 (e ▸ List.mem_map_of_mem hk)⟩
    · exact ih distinct.2 s rest hs

/-- Both invariants of drain jobs: their windows and their orders. -/
def DrainsHeld (s : State) : Prop := DrainsFollowWindows s ∧ TakenFollowsDrains s

theorem DrainsHeld.same {s t : State} (hs : DrainsHeld s) (stand : DirectoryStands s t)
    (keys : ∀ src, takenKeys t src = takenKeys s src) : DrainsHeld t :=
  ⟨hs.1.stands stand, hs.2.same stand.drains keys⟩

theorem Decision.drainsHeld {s t : State} (h : Decision s t) (hs : DrainsHeld s) : DrainsHeld t := by
  refine ⟨h.drainsFollow hs.1, ?_⟩
  cases h with
  | changed i w c => exact hs.2.same (by rw [applyChange_eng, reserve_eng]) (takenKeys_congr (by rw [applyChange_eng, reserve_eng]))
  | drains i w c m src e _ _ window live traffic room fits oldest =>
    have taken := takenKeys_takeOrder
      (s := setWindow i { w with state := .drainChange c } ((reserve c s).setDrains (s.eng.drains ++
        [⟨⟨i, (s.slot i).generation⟩, .change, m, src, e.sequence, e.code, s.eng.drainLimit⟩])))
      (src := src) (e := e) (by rw [← oldest]; exact oldestQueued_congr (by rw [← reserve_eng c s]; rfl) src) i
    have keys : ∀ k, takenKeys (setWindow i { w with state := .drainChange c } ((reserve c s).setDrains (s.eng.drains ++
        [⟨⟨i, (s.slot i).generation⟩, .change, m, src, e.sequence, e.code, s.eng.drainLimit⟩]))) k = takenKeys s k :=
      takenKeys_congr (by rw [← reserve_eng c s]; rfl)
    simp only [keys] at taken
    have start : startDrain i w (.drainChange c) .change m src e (reserve c s) = takeOrder src i
      (setWindow i { w with state := .drainChange c } ((reserve c s).setDrains (s.eng.drains ++
        [⟨⟨i, (s.slot i).generation⟩, .change, m, src, e.sequence, e.code, s.eng.drainLimit⟩]))) := by
      unfold startDrain
      rw [reserve_slot, reserve_eng]
    rw [start]
    exact hs.2.joined (hs.1.noJob (.some window (by rw [live]; rfl))) rfl (taken src).1 fun k hk => (taken k).2 hk
  | retires i w m src e _ _ window live traffic room oldest =>
    have taken := takenKeys_takeOrder (s := s) oldest i
    exact hs.2.joined (hs.1.noJob (.some window (by rw [live]; rfl))) rfl (taken src).1 fun k hk => (taken k).2 hk
  | freed i w => exact hs.2.same (by rw [freeSlot_eng]) (takenKeys_congr (by rw [freeSlot_eng]))
  | abandoned j _ hj => exact hs.2.removed hs.1.distinct hj (abandonJob_drains j s) (abandonJob_takenKeys j s)
  | _ => exact hs.2.same rfl fun _ => rfl

theorem DrainsHeld.completeDrains {s : State} (hs : DrainsHeld s) : DrainsHeld (completeDrains s) :=
  completeListed_keeps (fun j u hj _ hu =>
      ⟨hu.1.completeJob j, hu.2.removed hu.1.distinct hj (completeJob_drains j u) (completeJob_takenKeys j u)⟩)
    s.eng.drains hs.1.distinct s (fun _ hj => hj) hs

theorem movesKeep_drainsHeld : MovesKeep DrainsHeld where
  quiet h hs := hs.same h.directory (takenKeys_congr h.same.orders)
  queue h hs := hs.same h.directory h.takenKeys
  flow h hs := hs.same h.stand.directory (takenKeys_congr (by rw [h.traffic.eng]))
  decision h hs := h.drainsHeld hs
  drains h hs :=
    have before := keeps_ebbs (P := DrainsHeld) (fun m hu => hu.same m.directory (takenKeys_congr m.same.orders))
      (fun m hu => hu.same m.directory m.takenKeys)
      (fun m hu => hu.same m.stand.directory (takenKeys_congr (by rw [m.eng]))) h hs
    before.completeDrains

theorem takenFollows_powerOnValues (ph : Phase) (cause : ResetCause) (s : State) :
    TakenFollowsDrains (powerOnValues ph cause s) := by
  have empty : ∀ src, (powerOnValues ph cause s).orders src = [] := fun src =>
    ((powerOnValues_hold ph cause s).sources src).1
  refine ⟨fun j hj => (by cases hj), fun src i => ?_, fun src e he => ?_⟩
  · rw [empty]
    exact Nat.zero_le 1
  · rw [empty] at he
    cases he

/-- Settles O10: a drain starts with its order TAKEN, and its job leaves as its order is answered or removed. -/
theorem takenFollowsDrainsKept : Obligations.TakenFollowsDrainsKept := by
  unfold Obligations.TakenFollowsDrainsKept
  intro s t follows taken h
  have both : DrainsHeld t := step_keeps_of_notify movesKeep_drainsHeld
    (fun _ _ _ hu => hu.same (.of_dir (notify_dir ..) (by rw [notify_eng])) (takenKeys_congr (by rw [notify_eng])))
    (fun ph cause u _ => ⟨drainsFollow_powerOnValues ph cause u, takenFollows_powerOnValues ph cause u⟩)
    (fun _ _ hu => hu.same (.of_dir rfl rfl) fun _ => rfl) ⟨follows, taken⟩ h
  exact both.2

end Sys2Proof.Machine
end

section
/-! PROOFS. What the end of an event does for M and for the notified host, occasions, and what a frozen part keeps. -/

namespace Sys2Proof.Machine

/-! ### The end of an event, side by side (R179, R182 to R184) -/

/-- A NOTICE owed is acted on: one NOTICE of the flags now active, if there are any. -/
theorem notifyMgmt_prompted {s : State} (o : Bool) (h : s.events.noticeOwed = true) :
    notifyMgmt o true s =
      { s with
        events := { s.events with noticeOwed := false }
        ports := { s.ports with
          returns := s.ports.returns.set .mgmt
            (s.returns .mgmt ++ if activeFlags s.events = 0 then [] else [.notice (activeFlags s.events)]) } } := by
  unfold notifyMgmt
  rw [h]
  by_cases none : activeFlags s.events = 0
  · have same : s.ports.returns.set .mgmt (s.returns .mgmt) = s.ports.returns := PerSource.set_get _ _
    have quiet : (activeFlags { s.events with noticeOwed := false } != 0) = false := by rw [bne_eq_false_iff_eq]; exact none
    simp only [Bool.and_self, if_true, setNoticeOwed, State.setEvents_events, quiet, none, List.append_nil, same]
    rfl
  · have some : (activeFlags { s.events with noticeOwed := false } != 0) = true := by rw [bne_iff_ne]; exact none
    simp only [Bool.and_self, if_true, setNoticeOwed, State.setEvents_events, some, none, if_false]
    rfl

/-- At an occasion M gets a NOTICE if it is UP with none queued. -/
theorem notifyMgmt_placed {s : State} {q : Bool} (hq : (q && s.events.noticeOwed) = false) (up : s.link .mgmt = .up)
    (none : (s.returns .mgmt).any isNotice = false) : notifyMgmt true q s = pushReturn .mgmt (composeNotice s) s := by
  unfold notifyMgmt
  rw [hq]
  simp [up, none]

/-- At an occasion M is owed a NOTICE if it is not UP or has one queued. -/
theorem notifyMgmt_owed {s : State} {q : Bool} (hq : (q && s.events.noticeOwed) = false)
    (h : ¬(s.link .mgmt = .up ∧ (s.returns .mgmt).any isNotice = false)) : notifyMgmt true q s = setNoticeOwed true s := by
  unfold notifyMgmt
  rw [hq]
  rw [if_neg Bool.false_ne_true, if_pos rfl, if_neg (by simpa using h)]

theorem notifyMgmt_quiet {s : State} {q : Bool} (hq : (q && s.events.noticeOwed) = false) : notifyMgmt false q s = s := by
  unfold notifyMgmt
  rw [hq]
  rfl

/-- A notification owed is acted on: one notification POST, unless the host is barred or no flag is active. -/
theorem notifyHost_prompted {h : HostId} {s : State} (o : Bool) (owed : s.events.notificationOwed = true) :
    notifyHost h o true s =
      { s with
        events := { s.events with notificationOwed := false }
        ports := { s.ports with
          returns := s.ports.returns.set (.host h)
            (s.returns (.host h) ++
              if s.ports.barredHost.get h = true ∨ activeFlags s.events = 0 then [] else [composeNotification s]) } } := by
  have same : s.ports.returns.set (.host h) (s.returns (.host h)) = s.ports.returns := PerSource.set_get _ _
  unfold notifyHost
  rw [owed]
  by_cases none : s.ports.barredHost.get h = true ∨ activeFlags s.events = 0
  · have quiet : (!s.ports.barredHost.get h && activeFlags (setNotificationOwed false s).events != 0) = false := by
      rcases none with barred | none
      · rw [barred]; rfl
      · rw [Bool.and_eq_false_iff]
        exact .inr (by rw [bne_eq_false_iff_eq]; exact none)
    dsimp only
    rw [Bool.and_self, if_pos rfl, quiet, if_pos none, List.append_nil, same]
    rfl
  · have some : (!s.ports.barredHost.get h && activeFlags (setNotificationOwed false s).events != 0) = true := by
      rw [not_or] at none
      rw [Bool.and_eq_true]
      exact ⟨by simpa using none.1, by rw [bne_iff_ne]; exact none.2⟩
    dsimp only
    rw [Bool.and_self, if_pos rfl, some, if_neg none]
    rfl

/-- At an occasion the notified host gets a notification POST if it is UP with none queued. -/
theorem notifyHost_placed {h : HostId} {s : State} {q : Bool} (hq : (q && s.events.notificationOwed) = false)
    (unbarred : s.ports.barredHost.get h = false) (up : s.link (.host h) = .up)
    (none : (s.returns (.host h)).any isNotification = false) :
    notifyHost h true q s = pushReturn (.host h) (composeNotification s) s := by
  unfold notifyHost
  rw [hq]
  simp [unbarred, up, none]

/-- At an occasion the notified host is owed a notification if it is not UP or has one queued. -/
theorem notifyHost_owed {h : HostId} {s : State} {q : Bool} (hq : (q && s.events.notificationOwed) = false)
    (unbarred : s.ports.barredHost.get h = false)
    (hn : ¬(s.link (.host h) = .up ∧ (s.returns (.host h)).any isNotification = false)) :
    notifyHost h true q s = setNotificationOwed true s := by
  unfold notifyHost
  rw [hq, unbarred]
  dsimp only
  rw [if_neg Bool.false_ne_true, if_pos (by decide), if_neg (by simpa using hn)]

/-- Without an occasion, or to a barred host, nothing is placed and nothing is owed anew. -/
theorem notifyHost_quiet {h : HostId} {s : State} {o q : Bool} (hq : (q && s.events.notificationOwed) = false)
    (ho : o = false ∨ s.ports.barredHost.get h = true) : notifyHost h o q s = s := by
  unfold notifyHost
  rw [hq]
  rcases ho with ho | ho <;> simp [ho]

/-- M's side and the host's side of an event's end touch different queues and marks. -/
theorem notifyHost_mgmt (h : HostId) (o q : Bool) (s : State) :
    (notifyHost h o q s).returns .mgmt = s.returns .mgmt ∧ (notifyHost h o q s).events.noticeOwed = s.events.noticeOwed := by
  obtain ⟨b, r, e, _⟩ := notifyHost_eq h o q s
  rw [e]
  exact ⟨rfl, rfl⟩

theorem notifyHost_other {h k : HostId} (o q : Bool) (s : State) (hk : k ≠ h) :
    (notifyHost h o q s).returns (.host k) = s.returns (.host k) := by
  obtain ⟨b, r, e, _⟩ := notifyHost_eq h o q s
  rw [e, State.setReturns_returns_ne _ _ _ (by simpa using hk)]
  rfl

theorem notify_mgmt (before : State) (prompt : Option Port) (s : State) :
    (notify before prompt s).returns .mgmt =
        (notifyMgmt (isOccasion before s) (decide (prompt = some .mgmt)) s).returns .mgmt ∧
      (notify before prompt s).events.noticeOwed =
        (notifyMgmt (isOccasion before s) (decide (prompt = some .mgmt)) s).events.noticeOwed := by
  unfold notify
  dsimp only
  split
  · exact notifyHost_mgmt ..
  · exact ⟨rfl, rfl⟩

/-- The host's side reads nothing that M's side has changed. -/
theorem notifyHost_notifyMgmt (h : HostId) (o q o' q' : Bool) (s : State) :
    (notifyHost h o q (notifyMgmt o' q' s)).returns (.host h) = (notifyHost h o q s).returns (.host h) ∧
      (notifyHost h o q (notifyMgmt o' q' s)).events.notificationOwed = (notifyHost h o q s).events.notificationOwed := by
  obtain ⟨b, r, e, _⟩ := notifyMgmt_eq o' q' s
  rw [e]
  have barred : ((s.setEvents { s.events with noticeOwed := b }).setReturns .mgmt r).ports.barredHost = s.ports.barredHost := rfl
  have owed : ((s.setEvents { s.events with noticeOwed := b }).setReturns .mgmt r).events.notificationOwed =
    s.events.notificationOwed := rfl
  have queue : ((s.setEvents { s.events with noticeOwed := b }).setReturns .mgmt r).returns (.host h) = s.returns (.host h) := rfl
  have link : ((s.setEvents { s.events with noticeOwed := b }).setReturns .mgmt r).link (.host h) = s.link (.host h) := rfl
  have active : activeFlags ((s.setEvents { s.events with noticeOwed := b }).setReturns .mgmt r).events = activeFlags s.events :=
    rfl
  by_cases hq : (q && s.events.notificationOwed) = true
  · obtain ⟨rfl, hq⟩ := Bool.and_eq_true_iff.1 hq
    rw [notifyHost_prompted o hq, notifyHost_prompted o (owed.trans hq), queue, barred, active]
    exact ⟨rfl, rfl⟩
  · rw [Bool.not_eq_true] at hq
    cases o with
    | false => rw [notifyHost_quiet hq (.inl rfl), notifyHost_quiet (by rw [owed]; exact hq) (.inl rfl)]; exact ⟨rfl, rfl⟩
    | true =>
      by_cases unbarred : s.ports.barredHost.get h = true
      · rw [notifyHost_quiet hq (.inr unbarred), notifyHost_quiet (by rw [owed]; exact hq) (.inr (by rw [barred]; exact unbarred))]
        exact ⟨rfl, rfl⟩
      · rw [Bool.not_eq_true] at unbarred
        by_cases room : s.link (.host h) = .up ∧ (s.returns (.host h)).any isNotification = false
        · rw [notifyHost_placed hq unbarred room.1 room.2, notifyHost_placed (by rw [owed]; exact hq) (by rw [barred]; exact unbarred)
            (link.trans room.1) (by rw [queue]; exact room.2)]
          exact ⟨rfl, rfl⟩
        · rw [notifyHost_owed hq unbarred room, notifyHost_owed (by rw [owed]; exact hq) (by rw [barred]; exact unbarred)
            (by rw [queue, link]; exact room)]
          exact ⟨rfl, rfl⟩

theorem notifyMgmt_setting (o q : Bool) (s : State) : (notifyMgmt o q s).events.setting = s.events.setting := by
  obtain ⟨b, r, e, _⟩ := notifyMgmt_eq o q s
  rw [e]
  rfl

theorem notify_host {s : State} {h : HostId} (hs : s.events.setting.host = some h) (before : State) (prompt : Option Port) :
    (notify before prompt s).returns (.host h) =
        (notifyHost h (isOccasion before s) (decide (prompt = some (.host h))) s).returns (.host h) ∧
      (notify before prompt s).events.notificationOwed =
        (notifyHost h (isOccasion before s) (decide (prompt = some (.host h))) s).events.notificationOwed := by
  unfold notify
  dsimp only
  rw [notifyMgmt_setting, hs]
  exact notifyHost_notifyMgmt ..

/-- A host that is not the notified one gets nothing. -/
theorem notify_otherHost {s : State} {h : HostId} (hs : s.events.setting.host ≠ some h) (before : State) (prompt : Option Port) :
    (notify before prompt s).returns (.host h) = s.returns (.host h) := by
  obtain ⟨b, r, e, _⟩ := notifyMgmt_eq (isOccasion before s) (decide (prompt = some .mgmt)) s
  have mgmt : (notifyMgmt (isOccasion before s) (decide (prompt = some .mgmt)) s).returns (.host h) = s.returns (.host h) := by
    rw [e]
    rfl
  unfold notify
  dsimp only
  rw [notifyMgmt_setting]
  split
  · next k hk => rw [notifyHost_other _ _ _ (fun e : h = k => hs (e ▸ hk)), mgmt]
  · exact mgmt

/-- Without a notified host the owed mark stands. -/
theorem notify_noHost {s : State} (hs : s.events.setting.host = none) (before : State) (prompt : Option Port) :
    (notify before prompt s).events.notificationOwed = s.events.notificationOwed := by
  obtain ⟨b, r, e, _⟩ := notifyMgmt_eq (isOccasion before s) (decide (prompt = some .mgmt)) s
  unfold notify
  dsimp only
  rw [notifyMgmt_setting, hs, e]
  rfl

theorem notify_activeFlags (before : State) (prompt : Option Port) (s : State) :
    activeFlags (notify before prompt s).events = activeFlags s.events := by
  rw [notify_events]
  rfl

/-! ### Occasions (R179, R182) -/

/-- At an occasion M gets a NOTICE of all active flags or is owed one. -/
theorem notifyMgmt_reaches {s : State} (q : Bool) (active : activeFlags s.events ≠ 0) :
    (notifyMgmt true q s).events.noticeOwed = true ∨
      ∃ earlier, (notifyMgmt true q s).returns .mgmt = earlier ++ [.notice (activeFlags s.events)] := by
  by_cases hq : (q && s.events.noticeOwed) = true
  · obtain ⟨rfl, owed⟩ := Bool.and_eq_true_iff.1 hq
    rw [notifyMgmt_prompted true owed, if_neg active]
    exact .inr ⟨s.returns .mgmt, rfl⟩
  · rw [Bool.not_eq_true] at hq
    by_cases room : s.link .mgmt = .up ∧ (s.returns .mgmt).any isNotice = false
    · rw [notifyMgmt_placed hq room.1 room.2]
      exact .inr ⟨s.returns .mgmt, rfl⟩
    · rw [notifyMgmt_owed hq room]
      exact .inl rfl

/-- Some flag is pending and enabled in one state and was not in another. -/
theorem newlyActive_iff (s t : State) :
    (∃ i : Fin 12, t.events.pending.getLsbD i.val = true ∧ t.events.enabled.getLsbD i.val = true ∧
        ¬(s.events.pending.getLsbD i.val = true ∧ s.events.enabled.getLsbD i.val = true)) ↔
      isOccasion s t = true := by
  unfold isOccasion activeFlags
  rw [bne_iff_ne]
  constructor
  · rintro ⟨i, pending, enabled, before⟩ zero
    have bit := congrArg (fun x : BitVec 12 => x.getLsbD i.val) zero
    simp [pending, enabled] at bit
    exact before bit
  · intro some
    by_contra none
    push Not at none
    apply some
    ext i hi
    have bit := none ⟨i, hi⟩
    simp only [BitVec.getLsbD_eq_getElem hi] at bit
    simp only [BitVec.getElem_and, BitVec.getElem_not]
    cases hp : t.events.pending[i] <;> cases he : t.events.enabled[i] <;> simp_all

theorem activeFlags_of_occasion {s t : State} (h : isOccasion s t = true) : activeFlags t.events ≠ 0 := by
  intro zero
  simp [isOccasion, zero] at h

theorem notify_reaches {before : State} {prompt : Option Port} {s : State}
    (h : isOccasion before (notify before prompt s) = true) :
    (notify before prompt s).events.noticeOwed = true ∨
      ∃ earlier, (notify before prompt s).returns .mgmt =
        earlier ++ [.notice (activeFlags (notify before prompt s).events)] := by
  have occasion : isOccasion before s = true := by
    unfold isOccasion at h ⊢
    rwa [notify_activeFlags] at h
  obtain ⟨returns, owed⟩ := notify_mgmt before prompt s
  rw [returns, owed, notify_activeFlags, occasion]
  exact notifyMgmt_reaches _ (activeFlags_of_occasion occasion)

/-- Settles O22: the flags that an event makes active are told to M at its end; an order that can make none active has no such
end, and after a reset M is owed its NOTICE. -/
theorem occasionsReachManagement : Obligations.OccasionsReachManagement := by
  unfold Obligations.OccasionsReachManagement
  intro c s t h new
  rw [newlyActive_iff] at new
  by_cases hc : Resets c
  · rcases exec_resets hc h with rfl | ⟨ph, cause, _, rfl⟩
    · simp [isOccasion] at new
    · exact .inl rfl
  · cases exec_event hc s t h with
    | plain moves fall =>
      unfold isOccasion at new
      rw [fall] at new
      cases new
    | noticed moves => exact notify_reaches new
    | opened p running answering => exact notify_reaches new
    | sent src pkt rest queue up => exact notify_reaches new

/-! ### A frozen part without drains (R145, R146) -/

theorem WindowsStand.trans {s t u : State} (a : WindowsStand s t) (b : WindowsStand t u) : WindowsStand s u where
  windows i := ⟨(b.windows i).1.trans (a.windows i).1, (b.windows i).2.trans (a.windows i).2⟩
  pool := b.pool.trans a.pool
  fallback := b.fallback.trans a.fallback
  drains := b.drains.trans a.drains
  frozen := b.frozen.trans a.frozen
  rights := b.rights.trans a.rights
  allotment := b.allotment.trans a.allotment

/-- Quiet moves leave the directory alone, but for the freeze flag, which they only set. -/
theorem Quiet.stand {s t : State} (h : Quiet s t) (frozen : s.eng.frozen = true) : WindowsStand s t := by
  have same := h.same
  refine .of_same same.dir same.drains ?_ same.rights same.allotment
  cases h with
  | freeze => exact frozen.symm
  | barred p b => cases p <;> rfl
  | _ => rfl

theorem Ebbs.stand {s u : State} (h : Ebbs s u) (frozen : s.eng.frozen = true) : WindowsStand s u := by
  induction h with
  | refl => exact .refl s
  | tail _ last ih =>
    cases last with
    | quiet m => exact ih.trans (m.stand (ih.frozen.trans frozen))
    | queue m => exact ih.trans m.stand
    | ebb m => exact ih.trans m.stand

/-- No decision passes the freeze check on a frozen part, and without drains none is abandoned. -/
theorem Decision.not_frozen {s t : State} (h : Decision s t) (frozen : s.eng.frozen = true) (none : NoDrains s) : False := by
  have thawed : s.eng.frozen ≠ false := by rw [frozen]; decide
  cases h with
  | abandoned j _ hj =>
    rw [none] at hj
    cases hj
  | _ => exact thawed (by assumption)

theorem Moves.stand {s t : State} (h : Moves s t) (frozen : s.eng.frozen = true) (none : NoDrains s) : WindowsStand s t := by
  induction h with
  | refl => exact .refl s
  | tail _ last ih =>
    have frozen' := ih.frozen.trans frozen
    have none' : NoDrains _ := ih.drains.trans none
    cases last with
    | quiet m => exact ih.trans (m.stand frozen')
    | queue m => exact ih.trans m.stand
    | flow m => exact ih.trans m.stand
    | decision m => exact (m.not_frozen frozen' none').elim
    | drains m =>
      have before := m.stand frozen'
      rw [completeDrains_idle _ (before.drains.trans none')]
      exact ih.trans before

theorem WindowsStand.notify {s t : State} (h : WindowsStand s t) (before : State) (prompt : Option Port) :
    WindowsStand s (notify before prompt t) :=
  h.trans (.of_same (notify_dir ..) (by rw [notify_eng]) (by rw [notify_eng]) (by rw [notify_eng]) (by rw [notify_eng]))

theorem Event.stand {s t : State} (h : Event s t) (frozen : s.eng.frozen = true) (none : NoDrains s) : WindowsStand s t := by
  cases h with
  | plain moves => exact moves.stand frozen none
  | noticed moves => exact (moves.stand frozen none).notify ..
  | opened p running answering => exact ((moves_of_startSent running answering).stand frozen none).notify ..
  | sent src pkt rest queue up => exact ((moves_of_sendHead queue up).stand frozen none).notify ..

/-- Settles O21: on a frozen part no decision that changes the directory passes its checks, and nothing else changes it. -/
theorem frozenDirectoryStays : Obligations.FrozenDirectoryStays := by
  unfold Obligations.FrozenDirectoryStays
  intro c s t frozen none h
  by_cases hc : Resets c
  · exact .inl hc
  · have stand := (exec_event hc s t h).stand frozen none
    exact .inr ⟨stand.frozen.trans frozen, stand.drains.trans none, stand.windows, stand.pool, stand.fallback, stand.rights,
      stand.allotment⟩

end Sys2Proof.Machine
end

section
/-! PROOFS. The invariants of reply entries, egress queues and places. -/

namespace Sys2Proof.Machine

/-! ### What moves do to reply entries -/

theorem entry_setEntry (s : State) (i k : Fin Config.replyEntries) (e : Entry) :
    (s.setEntry i e).entry k = if k = i then e else s.entry k := State.setEntry_entry s i e k

/-- An ANSWERED entry becomes FREE. -/
def FreesAnswered (s t : State) (i : Fin Config.replyEntries) : Prop :=
  (∃ a, (s.entry i).state = .answered a) ∧ ∀ k, t.entry k = if k = i then ⟨(s.entry i).epoch + 1, .free⟩ else s.entry k

/-- What a move of queues does to the entries. -/
inductive EntriesMove (s t : State) : Prop
  | stand (h : ∀ k, t.entry k = s.entry k) (session : t.ports.session = s.ports.session)
  | refused (h : HostId) (tag : BitVec 8) (st : Status) (i : Fin Config.replyEntries) (free : (s.entry i).state = .free)
      (fresh : tagInUse s h tag = false)
      (entry : ∀ k, t.entry k =
        if k = i then ⟨(s.entry i).epoch, .answered ⟨h, tag, s.ports.session.get h, none, st, []⟩⟩ else s.entry k)
      (session : t.ports.session = s.ports.session)
  | freed (i : Fin Config.replyEntries) (h : FreesAnswered s t i) (session : t.ports.session = s.ports.session)
  | orphaned (h : HostId) (entry : ∀ k, t.entry k = orphanedEntry h (s.entry k))
      (session : t.ports.session = s.ports.session.set h (s.ports.session.get h + 1))

theorem EntriesMove.same {s t : State} (table : t.table.entries = s.table.entries) (session : t.ports.session = s.ports.session) :
    EntriesMove s t :=
  .stand (fun k => by unfold State.entry; rw [table]) session

theorem releaseSent_entries (src : Source) (pkt : ReturnPacket) (s : State) : EntriesMove s (releaseSent src pkt s) := by
  unfold releaseSent
  split
  · next i _ _ _ =>
    split
    · next a ha => exact .freed i ⟨⟨a, ha⟩, fun k => entry_setEntry s i k _⟩ rfl
    · exact .same rfl rfl
  · split
    · exact .same rfl rfl
    · exact .same rfl rfl
  · exact .same rfl rfl
  · exact .same rfl rfl

theorem QueueMove.entries {s t : State} (h : QueueMove s t) : EntriesMove s t := by
  cases h with
  | refused h tag st i _ head free fresh => exact .refused h tag st i free fresh (fun k => entry_setEntry s i k _) rfl
  | sent src pkt =>
    cases releaseSent_entries src pkt (sendAgainstCredit src.port (.back pkt) (s.setReturns src (s.returns src).tail)) with
    | stand h session => exact .stand h session
    | refused h tag st i free fresh entry session => exact .refused h tag st i free fresh entry session
    | freed i h session => exact .freed i h session
    | orphaned h entry session => exact .orphaned h entry session
  | hostDown h l n =>
    rw [endHostSession_eq]
    refine .orphaned h (fun k => ?_) rfl
    exact Vector.getElem_ofFn k.isLt
  | mgmtDown l n =>
    rw [endMgmtSession_eq]
    exact .same rfl rfl
  | starts p => cases p <;> exact .same rfl rfl
  | flushed h =>
    unfold flushIngress returnRequestCredits
    split <;> exact .same rfl rfl
  | _ => exact .same rfl rfl

theorem CountFalls.entry {s t : State} (h : CountFalls s t) (k : Fin Config.replyEntries) : t.entry k = s.entry k := by
  rw [h.rest]
  rfl

theorem removePosts_entry (picks : EgressPacket → Bool) (g : TargetId) (s : State) (k : Fin Config.replyEntries) :
    (removePosts picks g s).entry k = s.entry k :=
  foldl_rel (R := fun u v : State => v.entry k = u.entry k) (fun _ => rfl) (fun _ _ _ a b => b.trans a)
    (fun u pkt => lowerCountOf pkt u) (fun u pkt => (lowerCountOf_spec pkt u).entry k) _ _

/-- Nothing that lowers counts changes an entry, but that a WAITING entry leaves WAITING. -/
theorem Ebb.entries {s t : State} (h : Ebb s t) :
    (∀ k, t.entry k = s.entry k) ∨
      ∃ i w st d, (s.entry i).state = .waiting w ∧ t = leaveWaiting i st d s := by
  cases h with
  | left i w st d _ waiting => exact .inr ⟨i, w, st, d, waiting, rfl⟩
  | lost picks g => exact .inl (removePosts_entry picks g s)
  | delivered g pkt rest => exact .inl (lowerCountOf_spec pkt _).entry

theorem Ebb.session {s t : State} (h : Ebb s t) : t.ports.session = s.ports.session := by
  cases h with
  | left i w st d => rw [(ends_leaveWaiting i st d s).ports]
  | lost picks g => rw [(ends_removePosts picks g s).ports]
  | delivered g pkt rest =>
    unfold deliverHead
    rw [(lowerCountOf_spec pkt _).ends.ports]
    rfl

theorem raiseCount_entry (r : Route) (s : State) (k : Fin Config.replyEntries) : (raiseCount r s).entry k = s.entry k := by
  cases r <;> rfl

theorem forwardFetch_entry (h : HostId) (tag : BitVec 8) (n : Nat) (hop : Hop) (i k : Fin Config.replyEntries) (s : State) :
    (forwardFetch h tag n hop i s).entry k =
      if k = i then
        ⟨(s.entry i).epoch,
          .waiting ⟨h, tag, s.ports.session.get h, false, n, hop.route, hop.target, s.eng.replyLimit⟩⟩
      else s.entry k := by
  unfold forwardFetch
  dsimp only
  rw [raiseCount_entry]
  exact entry_setEntry s i k _

theorem placePost_entry (h : HostId) (d : List Byte) (hop : Hop) (g : TargetId) (s : State) (k : Fin Config.replyEntries) :
    (placePost h d hop g s).entry k = s.entry k := raiseCount_entry ..

theorem SlotOnly.table {i : Fin Config.slots} {s t : State} (h : SlotOnly i s t) : t.table = s.table := by rw [h.rest]

theorem SlotOnly.ports {i : Fin Config.slots} {s t : State} (h : SlotOnly i s t) : t.ports = s.ports := by rw [h.rest]

theorem SlotOnly.fwd {i : Fin Config.slots} {s t : State} (h : SlotOnly i s t) : t.fwd = s.fwd := by rw [h.rest]

theorem DrainsEnd.table {s t : State} (h : DrainsEnd s t) : t.table = s.table := by rw [h.rest]

theorem DrainsEnd.ports {s t : State} (h : DrainsEnd s t) : t.ports = { s.ports with returns := t.ports.returns } := by
  conv_lhs => rw [h.rest]

/-- Decisions change no entry, no ingress queue, no mark and, of the ports, only return queues. -/
structure Elsewhere (s t : State) : Prop where
  table : t.table = s.table
  fwd : t.fwd = s.fwd
  ports : t.ports = { s.ports with returns := t.ports.returns }

theorem Elsewhere.same {s t : State} (table : t.table = s.table) (fwd : t.fwd = s.fwd) (ports : t.ports = s.ports) :
    Elsewhere s t := ⟨table, fwd, by rw [ports]⟩

theorem SlotOnly.elsewhere {i : Fin Config.slots} {s t : State} (h : SlotOnly i s t) : Elsewhere s t :=
  .same h.table h.fwd h.ports

theorem DrainsEnd.elsewhere {s t : State} (h : DrainsEnd s t) : Elsewhere s t := ⟨h.table, h.fwd, h.ports⟩

theorem Elsewhere.trans {s t u : State} (a : Elsewhere s t) (b : Elsewhere t u) : Elsewhere s u :=
  ⟨b.table.trans a.table, b.fwd.trans a.fwd, by rw [b.ports, a.ports]⟩

theorem Decision.elsewhere {s t : State} (h : Decision s t) : Elsewhere s t := by
  cases h with
  | changed i w c => exact ((slotOnly_reserve i c s).trans (slotOnly_applyChange i c w _)).elsewhere
  | drains i w c m src e =>
    have reserved : Elsewhere s (reserve c s) := (slotOnly_reserve i c s).elsewhere
    exact reserved.trans (.same rfl rfl rfl)
  | freed i w => exact (slotOnly_freeSlot i s).elsewhere
  | abandoned j =>
    have restored : Elsewhere s (restoreWindow j.handle.slot s) := (slotOnly_restoreWindow _ s).elsewhere
    rw [abandonJob_eq]
    exact (restored.trans (drainsEnd_removeJob _ _).elsewhere).trans (drainsEnd_closeOrder ..).elsewhere
  | _ => exact .same rfl rfl rfl

section elsewhere

variable {s t : State} (h : Elsewhere s t)

include h

theorem Elsewhere.entry (k : Fin Config.replyEntries) : t.entry k = s.entry k := by unfold State.entry; rw [h.table]

theorem Elsewhere.ingress (k : HostId) : t.ingress k = s.ingress k := by unfold State.ingress; rw [h.fwd]

theorem Elsewhere.mark (k : HostId) : t.mark k = s.mark k := by unfold State.mark; rw [h.fwd]

theorem Elsewhere.egress (g : TargetId) : t.egress g = s.egress g := by unfold State.egress; rw [h.ports]

theorem Elsewhere.link (p : Port) : t.link p = s.link p := by unfold State.link; rw [h.ports]

theorem Elsewhere.session : t.ports.session = s.ports.session := by rw [h.ports]

end elsewhere

theorem elsewhere_notify (before : State) (prompt : Option Port) (s : State) : Elsewhere s (notify before prompt s) :=
  ⟨notify_table .., notify_fwd .., notify_ports ..⟩

/-! ### Tags (R53, R54) -/

theorem tagInUse_eq_false_iff (s : State) (h : HostId) (tag : BitVec 8) :
    tagInUse s h tag = false ↔ ∀ i, currentTag (s.entry i) ≠ some (h, tag) := by
  unfold tagInUse
  rw [List.any_eq_false]
  refine ⟨fun none i => ?_, fun none i _ => ?_⟩
  · have unused := none i (List.mem_finRange i)
    unfold currentTag
    cases hs : (s.entry i).state with
    | free => simp
    | waiting w =>
      simp only [hs] at unused ⊢
      cases ho : w.orphan with
      | true => simp
      | false => simpa [ho] using unused
    | answered a =>
      simp only [hs] at unused ⊢
      simpa using unused
  · have unused := none i
    unfold currentTag at unused
    cases hs : (s.entry i).state with
    | free => simp
    | waiting w =>
      simp only [hs] at unused ⊢
      cases ho : w.orphan with
      | true => simp
      | false => simpa [ho] using unused
    | answered a =>
      simp only [hs] at unused ⊢
      simpa using unused

/-- Entries keep host, tag and session or lose them. -/
theorem TagsDistinct.weakened {s t : State} (hs : TagsDistinct s)
    (tag : ∀ i, currentTag (t.entry i) = currentTag (s.entry i) ∨ currentTag (t.entry i) = none)
    (sessions : ∀ i, currentSession (t.entry i) = currentSession (s.entry i) ∨ currentSession (t.entry i) = none)
    (session : t.ports.session = s.ports.session) : TagsDistinct t where
  tags i j x hi hj := by
    have old : ∀ k, currentTag (t.entry k) = some x → currentTag (s.entry k) = some x := fun k hk => by
      rcases tag k with e | e
      · exact e ▸ hk
      · rw [e] at hk; cases hk
    exact hs.tags i j x (old i hi) (old j hj)
  sessions i h n hi := by
    rw [session]
    rcases sessions i with e | e
    · exact hs.sessions i h n (e ▸ hi)
    · rw [e] at hi; cases hi

theorem TagsDistinct.same {s t : State} (hs : TagsDistinct s) (entry : ∀ k, t.entry k = s.entry k)
    (session : t.ports.session = s.ports.session) : TagsDistinct t :=
  hs.weakened (fun i => .inl (by rw [entry])) (fun i => .inl (by rw [entry])) session

/-- An entry is allocated in the host's current session under a tag that none carries. -/
theorem TagsDistinct.allocated {s t : State} {h : HostId} {tag : BitVec 8} {i : Fin Config.replyEntries} {e : Entry}
    (hs : TagsDistinct s) (fresh : tagInUse s h tag = false) (entry : ∀ k, t.entry k = if k = i then e else s.entry k)
    (carries : currentTag e = some (h, tag)) (current : currentSession e = some (h, s.ports.session.get h))
    (session : t.ports.session = s.ports.session) : TagsDistinct t := by
  rw [tagInUse_eq_false_iff] at fresh
  refine ⟨fun j k x hj hk => ?_, fun j k n hj => ?_⟩
  · rw [entry] at hj hk
    split at hj
    · next ej =>
      split at hk
      · next ek => rw [ej, ek]
      · rw [carries] at hj
        exact absurd (hk.trans hj.symm) (fresh k)
    · split at hk
      · rw [carries] at hk
        exact absurd (hj.trans hk.symm) (fresh j)
      · exact hs.tags j k x hj hk
  · rw [entry] at hj
    rw [session]
    split at hj
    · rw [current] at hj
      cases hj
      rfl
    · exact hs.sessions j k n hj

theorem orphanedEntry_tag (h : HostId) (e : Entry) :
    currentTag (orphanedEntry h e) = currentTag e ∨ currentTag (orphanedEntry h e) = none := by
  unfold orphanedEntry
  split
  · split
    · exact .inr rfl
    · exact .inl rfl
  · split
    · exact .inr rfl
    · exact .inl rfl
  · exact .inl rfl

/-- After its session's end no entry belongs to the host's session; the others' stand. -/
theorem orphanedEntry_session {h k : HostId} {e : Entry} {n : BitVec 8} (hk : currentSession (orphanedEntry h e) = some (k, n)) :
    k ≠ h ∧ currentSession e = some (k, n) := by
  unfold orphanedEntry at hk
  split at hk
  · next w hw =>
    split at hk
    · cases hk
    · next other =>
      refine ⟨?_, hk⟩
      rintro rfl
      simp only [currentSession, hw] at hk
      split at hk
      · cases hk
      · cases hk
        exact other rfl
  · next a ha =>
    split at hk
    · cases hk
    · next other =>
      refine ⟨?_, hk⟩
      rintro rfl
      simp only [currentSession, ha] at hk
      cases hk
      exact other rfl
  · next hf =>
    simp only [currentSession, hf] at hk
    cases hk

theorem EntriesMove.tagsDistinct {s t : State} (h : EntriesMove s t) (hs : TagsDistinct s) : TagsDistinct t := by
  cases h with
  | stand entry session => exact hs.same entry session
  | refused h tag st i free fresh entry session => exact hs.allocated fresh entry rfl rfl session
  | freed i h session =>
    refine hs.weakened (fun k => ?_) (fun k => ?_) session
    · rw [h.2 k]
      split
      · exact .inr rfl
      · exact .inl rfl
    · rw [h.2 k]
      split
      · exact .inr rfl
      · exact .inl rfl
  | orphaned h entry session =>
    refine ⟨fun i j x hi hj => ?_, fun i k n hi => ?_⟩
    · have old : ∀ k, currentTag (t.entry k) = some x → currentTag (s.entry k) = some x := fun k hk => by
        rw [entry] at hk
        rcases orphanedEntry_tag h (s.entry k) with e | e
        · exact e ▸ hk
        · rw [e] at hk; cases hk
      exact hs.tags i j x (old i hi) (old j hj)
    · rw [entry] at hi
      obtain ⟨other, old⟩ := orphanedEntry_session hi
      rw [session, PerHost.get_set_ne _ _ other]
      exact hs.sessions i k n old

theorem Ebb.tagsDistinct {s t : State} (h : Ebb s t) (hs : TagsDistinct s) : TagsDistinct t := by
  have session := h.session
  rcases h.entries with stand | ⟨i, w, st, d, hw, rfl⟩
  · exact hs.same stand session
  · refine hs.weakened (fun k => ?_) (fun k => ?_) session
    · rw [leaveWaiting_entry hw]
      split
      · next hk =>
        rw [hk]
        cases ho : w.orphan <;> simp [currentTag, hw, ho]
      · exact .inl rfl
    · rw [leaveWaiting_entry hw]
      split
      · next hk =>
        rw [hk]
        cases ho : w.orphan <;> simp [currentSession, hw, ho]
      · exact .inl rfl

theorem Quiet.tagsDistinct {s t : State} (h : Quiet s t) (hs : TagsDistinct s) : TagsDistinct t :=
  hs.same h.same.entry h.same.session

theorem Flow.tagsDistinct {s t : State} (h : Flow s t) (hs : TagsDistinct s) : TagsDistinct t := by
  have session := h.traffic.session
  cases h with
  | fetched h tag n hop i _ head free fresh =>
    exact hs.allocated fresh (fun k => forwardFetch_entry h tag n hop i k s) rfl rfl session
  | posted h d hop g => exact hs.same (placePost_entry h d hop g s) session

theorem movesKeep_tagsDistinct : MovesKeep TagsDistinct where
  quiet h hs := h.tagsDistinct hs
  queue h hs := h.entries.tagsDistinct hs
  flow h hs := h.tagsDistinct hs
  decision h hs := hs.same h.elsewhere.entry h.elsewhere.session
  drains h hs :=
    have before := keeps_ebbs (P := TagsDistinct) Quiet.tagsDistinct (fun m => m.entries.tagsDistinct) Ebb.tagsDistinct h hs
    have ended := (drainsEnd_completeDrains _).elsewhere
    before.same ended.entry ended.session

theorem powerOnValues_free (ph : Phase) (cause : ResetCause) (s : State) (i : Fin Config.replyEntries) :
    ((powerOnValues ph cause s).entry i).state = .free := by
  rw [(powerOnValues_hold ph cause s).entries i]

theorem tagsDistinct_powerOnValues (ph : Phase) (cause : ResetCause) (s : State) : TagsDistinct (powerOnValues ph cause s) where
  tags i j x hi := by
    rw [currentTag, powerOnValues_free] at hi
    cases hi
  sessions i h n hi := by
    rw [currentSession, powerOnValues_free] at hi
    cases hi

/-- Settles O12: an entry is allocated under a tag that no other carries, in its host's current session. -/
theorem tagsDistinctKept : Obligations.TagsDistinctKept := by
  unfold Obligations.TagsDistinctKept
  intro s t hs h
  exact step_keeps_of_notify movesKeep_tagsDistinct
    (fun before prompt u hu => hu.same (notify_entry before prompt u) (elsewhere_notify before prompt u).session)
    (fun ph cause u _ => tagsDistinct_powerOnValues ph cause u) (fun _ _ hu => hu.same (fun _ => rfl) rfl) hs h

end Sys2Proof.Machine
end

section
/-! PROOFS. The invariants of egress queues, places and in-flight counts. -/

namespace Sys2Proof.Machine

/-! ### What moves do to egress queues -/

theorem releaseSent_ports_egress (src : Source) (pkt : ReturnPacket) (s : State) :
    (releaseSent src pkt s).ports.egress = s.ports.egress := by
  unfold releaseSent
  split
  · split <;> rfl
  · split <;> rfl
  · rfl
  · rfl

/-- Moves of queues leave an egress queue alone or empty one without POSTs. -/
theorem QueueMove.egress {s t : State} (h : QueueMove s t) (g : TargetId) :
    t.egress g = s.egress g ∨ t.egress g = [] ∧ ∀ pkt ∈ s.egress g, isPost pkt = false := by
  cases h with
  | hostDown h l n => rw [endHostSession_eq]; exact .inl rfl
  | mgmtDown l n => rw [endMgmtSession_eq]; exact .inl rfl
  | starts p => cases p <;> exact .inl rfl
  | sent src pkt =>
    refine .inl ?_
    unfold State.egress sendHead
    rw [releaseSent_ports_egress]
    rfl
  | flushed h =>
    unfold flushIngress returnRequestCredits
    split <;> exact .inl rfl
  | cleared k _ noPost =>
    rw [State.setEgress_egress]
    split
    · next e => exact .inr ⟨rfl, e ▸ noPost⟩
    · exact .inl rfl
  | _ => exact .inl rfl

theorem QueueMove.egress_sublist {s t : State} (h : QueueMove s t) (g : TargetId) : (t.egress g).Sublist (s.egress g) := by
  rcases h.egress g with e | ⟨e, _⟩
  · rw [e]
  · rw [e]
    exact List.nil_sublist _

theorem lowerCount_egress (r : Route) (s : State) (g : TargetId) : (lowerCount r s).egress g = s.egress g := by cases r <;> rfl

/-- An entry that leaves WAITING takes its FETCH out of its target's queue (R56). -/
theorem leaveWaiting_egress {s : State} {i : Fin Config.replyEntries} {w : Waiting} (h : (s.entry i).state = .waiting w)
    (st : Status) (d : List Byte) (g : TargetId) :
    (leaveWaiting i st d s).egress g =
      if g = w.target then (s.egress g).filter (fun pkt => !isFetchOf i pkt) else s.egress g := by
  have removed : (lowerCount w.route (removeFetch w.target i s)).egress g =
      if g = w.target then (s.egress g).filter (fun pkt => !isFetchOf i pkt) else s.egress g := by
    rw [lowerCount_egress, removeFetch, State.setEgress_egress]
    split
    · next e => rw [e]
    · rfl
  rw [leaveWaiting_waiting h]
  split
  · exact removed
  · exact removed

theorem deliverHead_egress {s : State} {g : TargetId} {pkt : EgressPacket} {rest : List EgressPacket}
    (queue : s.egress g = pkt :: rest) (k : TargetId) :
    (deliverHead g pkt s).egress k = if k = g then rest else s.egress k := by
  unfold deliverHead
  rw [lowerCountOf_egress]
  change ((s.setEgress g (s.egress g).tail).egress k) = _
  rw [State.setEgress_egress, queue]
  rfl

theorem Ebb.egress_sublist {s t : State} (h : Ebb s t) (g : TargetId) : (t.egress g).Sublist (s.egress g) := by
  cases h with
  | left i w st d => exact (ends_leaveWaiting i st d s).egress g
  | lost picks k => exact (ends_removePosts picks k s).egress g
  | delivered k pkt rest _ queue =>
    rw [deliverHead_egress queue]
    split
    · next e =>
      rw [e, queue]
      exact List.sublist_cons_self ..
    · exact List.Sublist.refl _

theorem forwardFetch_egress (h : HostId) (tag : BitVec 8) (n : Nat) (hop : Hop) (i : Fin Config.replyEntries) (k : TargetId)
    (s : State) :
    (forwardFetch h tag n hop i s).egress k =
      if k = hop.target then s.egress k ++ [.fetch i (s.entry i).epoch hop.address n] else s.egress k := by
  unfold forwardFetch
  dsimp only
  rw [raiseCount_egress]
  unfold pushEgress
  rw [State.setEgress_egress]
  split
  · next e => rw [e]; rfl
  · rfl

/-! ### Forwarded FETCHes (R56) -/

theorem isFetchOf_iff (i : Fin Config.replyEntries) (pkt : EgressPacket) :
    isFetchOf i pkt = true ↔ ∃ ep a n, pkt = .fetch i ep a n := by
  unfold isFetchOf
  split
  · next j ep a n =>
    rw [beq_iff_eq]
    constructor
    · rintro rfl
      exact ⟨ep, a, n, rfl⟩
    · rintro ⟨ep', a', n', e⟩
      cases e
      rfl
  · simp

/-- An entry that is not WAITING has no FETCH in an egress queue. -/
theorem EgressFollowsEntries.noFetch {s : State} (hs : EgressFollowsEntries s) {i : Fin Config.replyEntries}
    (h : ∀ w, (s.entry i).state ≠ .waiting w) (g : TargetId) : ∀ pkt ∈ s.egress g, isFetchOf i pkt = false := by
  intro pkt hpkt
  rw [Bool.eq_false_iff]
  intro fetch
  obtain ⟨ep, a, n, rfl⟩ := (isFetchOf_iff i pkt).1 fetch
  obtain ⟨_, w, hw, _⟩ := hs.waiting g i ep a n hpkt
  exact h w hw

/-- What a FETCH in an egress queue needs of its entry stands. -/
def KeepsWait (e e' : Entry) : Prop :=
  e'.epoch = e.epoch ∧ ∀ w, e.state = .waiting w → ∃ w', e'.state = .waiting w' ∧ w'.target = w.target ∧ w'.length = w.length

theorem KeepsWait.refl (e : Entry) : KeepsWait e e := ⟨rfl, fun w hw => ⟨w, hw, rfl, rfl⟩⟩

/-- Egress queues lose packets, and the entries of the FETCHes that are left keep waiting. -/
theorem EgressFollowsEntries.weakened {s t : State} (hs : EgressFollowsEntries s)
    (sublist : ∀ g, (t.egress g).Sublist (s.egress g))
    (keeps : ∀ g, ∀ pkt ∈ t.egress g, ∀ i, isFetchOf i pkt = true → KeepsWait (s.entry i) (t.entry i)) :
    EgressFollowsEntries t where
  waiting g i ep a n h := by
    obtain ⟨epoch, w, hw, target, length⟩ := hs.waiting g i ep a n ((sublist g).subset h)
    obtain ⟨sameEpoch, waits⟩ := keeps g _ h i ((isFetchOf_iff ..).2 ⟨ep, a, n, rfl⟩)
    obtain ⟨w', hw', target', length'⟩ := waits w hw
    exact ⟨sameEpoch.trans epoch, w', hw', target'.trans target, length'.trans length⟩
  once g i := ((sublist g).countP_le).trans (hs.once g i)

theorem EgressFollowsEntries.same {s t : State} (hs : EgressFollowsEntries s) (egress : ∀ g, t.egress g = s.egress g)
    (entry : ∀ k, t.entry k = s.entry k) : EgressFollowsEntries t :=
  hs.weakened (fun g => by rw [egress]) fun _ _ _ i _ => by rw [entry]; exact .refl _

theorem keepsWait_orphaned (h : HostId) (e : Entry) (hw : ∃ w, e.state = .waiting w) : KeepsWait e (orphanedEntry h e) := by
  obtain ⟨w, hw⟩ := hw
  unfold orphanedEntry
  rw [hw]
  dsimp only
  split
  · refine ⟨rfl, fun v hv => ?_⟩
    rw [hw] at hv
    cases hv
    exact ⟨_, rfl, rfl, rfl⟩
  · exact .refl e

theorem QueueMove.egressFollows {s t : State} (h : QueueMove s t) (hs : EgressFollowsEntries s) : EgressFollowsEntries t := by
  refine hs.weakened h.egress_sublist fun g pkt hpkt i fetch => ?_
  have old := (h.egress_sublist g).subset hpkt
  have waits : ∃ w, (s.entry i).state = .waiting w := by
    by_contra none
    push Not at none
    rw [hs.noFetch none g pkt old] at fetch
    cases fetch
  obtain ⟨w, hw⟩ := waits
  cases h.entries with
  | stand entry => rw [entry]; exact .refl _
  | refused h tag st k free fresh entry =>
    rw [entry, if_neg (by rintro rfl; rw [free] at hw; cases hw)]
    exact .refl _
  | freed k h =>
    obtain ⟨⟨a, ha⟩, entry⟩ := h
    rw [entry, if_neg (by rintro rfl; rw [ha] at hw; cases hw)]
    exact .refl _
  | orphaned h entry =>
    rw [entry]
    exact keepsWait_orphaned h _ ⟨w, hw⟩

theorem Ebb.egressFollows {s t : State} (h : Ebb s t) (hs : EgressFollowsEntries s) : EgressFollowsEntries t := by
  refine hs.weakened h.egress_sublist fun g pkt hpkt i fetch => ?_
  rcases h.entries with entry | ⟨k, w, st, d, hw, rfl⟩
  · rw [entry]
    exact .refl _
  · rw [leaveWaiting_entry hw]
    split
    · next e =>
      subst e
      have old := (h.egress_sublist g).subset hpkt
      obtain ⟨ep, a, n, rfl⟩ := (isFetchOf_iff i pkt).1 fetch
      obtain ⟨_, v, hv, target, _⟩ := hs.waiting g i ep a n old
      rw [hw] at hv
      cases hv
      rw [leaveWaiting_egress hw, if_pos target.symm, List.mem_filter] at hpkt
      rw [fetch] at hpkt
      exact absurd hpkt.2 (by decide)
    · exact .refl _

theorem Flow.egressFollows {s t : State} (h : Flow s t) (hs : EgressFollowsEntries s) : EgressFollowsEntries t := by
  cases h with
  | fetched h tag n hop i _ head free fresh opens room =>
    have none : ∀ w, (s.entry i).state ≠ .waiting w := fun w hw => by rw [free] at hw; cases hw
    refine ⟨fun g k ep a m hk => ?_, fun g k => ?_⟩
    · have old : .fetch k ep a m ∈ s.egress g → (s.entry k).epoch = ep ∧ ∃ w, (s.entry k).state = .waiting w ∧
          w.target = g ∧ w.length = m := hs.waiting g k ep a m
      have apart : .fetch k ep a m ∈ s.egress g → k ≠ i := by
        rintro hold rfl
        obtain ⟨_, w, hw, _⟩ := old hold
        exact none w hw
      rw [forwardFetch_egress] at hk
      rw [forwardFetch_entry]
      split at hk
      · next e =>
        rcases List.mem_append.1 hk with hk | hk
        · rw [if_neg (apart hk)]
          exact old hk
        · cases List.mem_singleton.1 hk
          rw [if_pos rfl]
          exact ⟨rfl, _, rfl, e.symm, rfl⟩
      · rw [if_neg (apart hk)]
        exact old hk
    · rw [forwardFetch_egress]
      split
      · rw [List.countP_append, List.countP_singleton]
        by_cases hk : k = i
        · subst hk
          rw [List.countP_eq_zero.2 fun pkt hpkt => by rw [hs.noFetch none g pkt hpkt]; decide]
          split <;> omega
        · rw [if_neg (by simpa [isFetchOf] using fun e => hk e.symm)]
          exact hs.once g k
      · exact hs.once g k
  | posted h d hop g =>
    refine ⟨fun k i ep a n hk => ?_, fun k i => ?_⟩
    · rw [placePost_entry]
      exact hs.waiting k i ep a n (mem_of_fetch_mem_placePost h d hop g s k i ep a n hk)
    · rw [placePost_egress]
      split
      · next e =>
        rw [List.countP_append, ← e, List.countP_singleton, if_neg (by simp [isFetchOf])]
        exact hs.once k i
      · exact hs.once k i

theorem Quiet.egressFollows {s t : State} (h : Quiet s t) (hs : EgressFollowsEntries s) : EgressFollowsEntries t :=
  hs.same h.same.egress_eq h.same.entry

theorem movesKeep_egressFollows : MovesKeep EgressFollowsEntries where
  quiet h hs := h.egressFollows hs
  queue h hs := h.egressFollows hs
  flow h hs := h.egressFollows hs
  decision h hs := hs.same h.elsewhere.egress h.elsewhere.entry
  drains h hs :=
    have before := keeps_ebbs (P := EgressFollowsEntries) Quiet.egressFollows QueueMove.egressFollows Ebb.egressFollows h hs
    have ended := (drainsEnd_completeDrains _).elsewhere
    before.same ended.egress ended.entry

theorem powerOnValues_egress (ph : Phase) (cause : ResetCause) (s : State) (g : TargetId) :
    (powerOnValues ph cause s).egress g = [] := ((powerOnValues_hold ph cause s).targets g).1

theorem egressFollows_powerOnValues (ph : Phase) (cause : ResetCause) (s : State) :
    EgressFollowsEntries (powerOnValues ph cause s) where
  waiting g i ep a n h := by
    rw [powerOnValues_egress] at h
    cases h
  once g i := by
    rw [powerOnValues_egress]
    exact Nat.zero_le 1

/-- Settles O13: a FETCH enters its queue as its entry becomes WAITING, and leaves it at the latest with it. -/
theorem egressFollowsEntriesKept : Obligations.EgressFollowsEntriesKept := by
  unfold Obligations.EgressFollowsEntriesKept
  intro s t hs h
  exact step_keeps_of_notify movesKeep_egressFollows
    (fun before prompt u hu => hu.same (notify_egress before prompt u) (notify_entry before prompt u))
    (fun ph cause u _ => egressFollows_powerOnValues ph cause u) (fun _ _ hu => hu.same (fun _ => rfl) fun _ => rfl) hs h

/-! ### Places (R29, R73, R151) -/

/-- The replaced entry counts as it did. -/
theorem countP_updateFirst {α : Type} {p picks : α → Bool} {f : α → α} (same : ∀ x, picks x = true → p (f x) = p x) (l : List α) :
    (updateFirst picks f l).countP p = l.countP p := by
  induction l with
  | nil => rfl
  | cons x l ih =>
    unfold updateFirst
    split
    · next hx => rw [List.countP_cons, List.countP_cons, same x hx]
    · rw [List.countP_cons, List.countP_cons, ih]

theorem placesUsed_updateFirst {picks : OrderEntry → Bool} {f : OrderEntry → OrderEntry} (same : ∀ e, (f e).silent = e.silent)
    (q : List OrderEntry) : placesUsed (updateFirst picks f q) = placesUsed q :=
  countP_updateFirst (p := fun e : OrderEntry => !e.silent) (fun e _ => by rw [same]) q

theorem placesUsed_silenced (q : List OrderEntry) : placesUsed (silenced q) = 0 := by
  unfold placesUsed silenced
  rw [List.countP_eq_zero]
  intro e he
  obtain ⟨e', _, rfl⟩ := List.mem_map.1 he
  simp

theorem releaseSent_orders (src k : Source) (pkt : ReturnPacket) (s : State) :
    ((releaseSent src pkt s).orders k).Sublist (s.orders k) := by
  unfold releaseSent
  split
  · split <;> exact List.Sublist.refl _
  · split
    · change ((s.setOrders src _).orders k).Sublist _
      rw [orders_setOrders]
      split
      · next e =>
        rw [e]
        exact List.eraseP_sublist
      · exact List.Sublist.refl _
    · exact List.Sublist.refl _
  · exact List.Sublist.refl _
  · exact List.Sublist.refl _

/-- Places in use stay the same or grow fewer. -/
def PlacesFall (s t : State) : Prop := ∀ src, placesUsed (t.orders src) ≤ placesUsed (s.orders src)

theorem PlacesFall.same {s t : State} (h : t.eng.orders = s.eng.orders) : PlacesFall s t := fun src => by
  unfold State.orders
  rw [h]

theorem PlacesFall.trans {s t u : State} (a : PlacesFall s t) (b : PlacesFall t u) : PlacesFall s u :=
  fun src => (b src).trans (a src)

theorem placesFall_setOrders {s : State} {src : Source} {q : List OrderEntry} (h : placesUsed q ≤ placesUsed (s.orders src)) :
    PlacesFall s (s.setOrders src q) := fun k => by
  rw [orders_setOrders]
  split
  · next e => rw [e]; exact h
  · exact Nat.le_refl _

theorem placesFall_closeOrder (src : Source) (i : Fin Config.slots) (st : Status) (s : State) :
    PlacesFall s (closeOrder src i st s) := by
  unfold closeOrder
  split
  · split
    · exact placesFall_setOrders (List.eraseP_sublist.countP_le)
    · exact placesFall_setOrders (s := s) (Nat.le_of_eq (placesUsed_updateFirst (fun _ => by rfl) _))
  · exact .same rfl

theorem placesFall_takeOrder (src : Source) (i : Fin Config.slots) (s : State) : PlacesFall s (takeOrder src i s) :=
  placesFall_setOrders (Nat.le_of_eq (placesUsed_updateFirst (fun _ => by rfl) _))

theorem placesFall_completeDrains (s : State) : PlacesFall s (completeDrains s) :=
  foldl_rel (R := PlacesFall) (fun _ => .same rfl) (fun _ _ _ => .trans)
    (fun s' (j : DrainJob) => if (s'.slot j.handle.slot).count = 0 then completeJob j s' else s')
    (fun u j => by
      split
      · exact (PlacesFall.same (t := removeJob j.handle.slot (carryOutPurpose j.handle.slot u))
          (by rw [← carryOutPurpose_eng j.handle.slot u]; rfl)).trans (placesFall_closeOrder _ _ _ _)
      · exact .same rfl) s.eng.drains s

theorem Decision.places {s t : State} (h : Decision s t) : PlacesFall s t := by
  cases h with
  | changed i w c => exact .same (by rw [applyChange_eng, reserve_eng])
  | drains i w c m src e =>
    have reserved : PlacesFall s (reserve c s) := .same (by rw [reserve_eng])
    exact reserved.trans (placesFall_takeOrder src i _)
  | retires i w m src e => exact placesFall_takeOrder (s := s) src i
  | freed i w => exact .same (by rw [freeSlot_eng])
  | abandoned j =>
    rw [abandonJob_eq]
    exact (PlacesFall.same (t := removeJob j.handle.slot (restoreWindow j.handle.slot s))
      (by
        change (restoreWindow j.handle.slot s).eng.orders = s.eng.orders
        rw [(slotOnly_restoreWindow j.handle.slot s).rest])).trans (placesFall_closeOrder _ _ _ _)
  | _ => exact .same rfl

theorem ingress_setIngress (s : State) (h k : HostId) (q : List Request) :
    (s.setIngress h q).ingress k = if k = h then q else s.ingress k := PerHost.get_set _ _ _ _

theorem releaseSent_fwd (src : Source) (pkt : ReturnPacket) (s : State) : (releaseSent src pkt s).fwd = s.fwd := by
  unfold releaseSent
  split
  · split <;> rfl
  · split <;> rfl
  · rfl
  · rfl

theorem QueuesFit.fewer {s t : State} (hs : QueuesFit s) (ingress : ∀ h, (t.ingress h).length ≤ (s.ingress h).length)
    (orders : PlacesFall s t) (egress : ∀ g, (t.egress g).length ≤ (s.egress g).length) : QueuesFit t :=
  ⟨fun h => (ingress h).trans (hs.ingress h), fun src => (orders src).trans (hs.orders src),
    fun g => (egress g).trans (hs.egress g)⟩

/-- Ingress queues grow by an arrival at a free place, and order queues likewise. -/
theorem QueueMove.queuesFit {s t : State} (h : QueueMove s t) (hs : QueuesFit s) : QueuesFit t := by
  have egress : ∀ g, (t.egress g).length ≤ (s.egress g).length := fun g => (h.egress_sublist g).length_le
  have fewer : (∀ h, (t.ingress h).length ≤ (s.ingress h).length) → PlacesFall s t → QueuesFit t :=
    fun ingress orders => hs.fewer ingress orders egress
  cases h with
  | request h r _ up room =>
    refine ⟨fun k => ?_, hs.orders, hs.egress⟩
    rw [ingress_setIngress]
    split
    · rw [List.length_append, List.length_singleton]
      exact room
    · exact hs.ingress k
  | order src e _ up room queued loud =>
    refine ⟨hs.ingress, fun k => ?_, hs.egress⟩
    rw [orders_setOrders]
    split
    · next ek =>
      subst ek
      unfold placesUsed at room ⊢
      rw [List.countP_append, List.countP_singleton, if_pos (by rw [loud]; rfl)]
      exact room
    · exact hs.orders k
  | head h =>
    refine fewer (fun k => ?_) (.same rfl)
    change ((s.setIngress h (s.ingress h).tail).ingress k).length ≤ _
    rw [ingress_setIngress]
    split
    · next e =>
      rw [e, List.length_tail]
      exact Nat.sub_le ..
    · exact Nat.le_refl _
  | sent src pkt =>
    refine fewer (fun k => Nat.le_of_eq ?_) fun k => ?_
    · unfold State.ingress sendHead
      rw [releaseSent_fwd]
      rfl
    · exact (releaseSent_orders src k pkt _).countP_le
  | hostDown h l n =>
    rw [endHostSession_eq]
    refine hs.fewer (fun k => ?_) (placesFall_setOrders (s := s) (by rw [placesUsed_silenced]; exact Nat.zero_le _))
      fun _ => Nat.le_refl _
    change ((s.setIngress h []).ingress k).length ≤ _
    rw [ingress_setIngress]
    split
    · exact Nat.zero_le _
    · exact Nat.le_refl _
  | mgmtDown l n =>
    rw [endMgmtSession_eq]
    exact hs.fewer (fun _ => Nat.le_refl _) (placesFall_setOrders (s := s) (by rw [placesUsed_silenced]; exact Nat.zero_le _))
      fun _ => Nat.le_refl _
  | answered src e st rs =>
    exact fewer (fun _ => Nat.le_refl _) (placesFall_setOrders (s := s) (Nat.le_of_eq (placesUsed_updateFirst (fun _ => by rfl) _)))
  | starts p => cases p <;> exact fewer (fun _ => Nat.le_refl _) (.same rfl)
  | flushed h =>
    refine fewer (fun k => ?_) (.same (by rw [flushIngress_eng]))
    have emptied : (flushIngress h s).ingress k = (s.setIngress h []).ingress k := by
      unfold flushIngress returnRequestCredits
      split <;> rfl
    rw [emptied, ingress_setIngress]
    split
    · exact Nat.zero_le _
    · exact Nat.le_refl _
  | _ => exact fewer (fun _ => Nat.le_refl _) (.same rfl)

theorem Ebb.fwd {s t : State} (h : Ebb s t) : t.fwd = s.fwd := by
  cases h with
  | left i w st d => exact (ends_leaveWaiting i st d s).fwd
  | lost picks g => exact (ends_removePosts picks g s).fwd
  | delivered g pkt rest => exact (lowerCountOf_spec pkt _).ends.fwd

theorem Ebb.ingress {s t : State} (h : Ebb s t) (k : HostId) : t.ingress k = s.ingress k := by
  unfold State.ingress
  rw [h.fwd]

theorem Ebb.queuesFit {s t : State} (h : Ebb s t) (hs : QueuesFit s) : QueuesFit t :=
  hs.fewer (fun k => by rw [h.ingress]) (.same (by rw [h.eng])) fun g => (h.egress_sublist g).length_le

theorem Quiet.queuesFit {s t : State} (h : Quiet s t) (hs : QueuesFit s) : QueuesFit t :=
  hs.fewer (fun k => by rw [h.same.ingress_eq]) (.same h.same.orders) fun g => by rw [h.same.egress_eq]

theorem raiseCount_fwd (r : Route) (s : State) : (raiseCount r s).fwd = s.fwd := by cases r <;> rfl

theorem Flow.fwd {s t : State} (h : Flow s t) : t.fwd = s.fwd := by
  cases h with
  | fetched h tag n hop i => exact raiseCount_fwd ..
  | posted h d hop g => exact raiseCount_fwd ..

theorem Flow.queuesFit {s t : State} (h : Flow s t) (fit : WindowsFit s) (hs : QueuesFit s) : QueuesFit t := by
  have ingress : ∀ k, t.ingress k = s.ingress k := fun k => by unfold State.ingress; rw [h.fwd]
  have orders : PlacesFall s t := .same (by rw [h.traffic.eng])
  refine ⟨fun k => by rw [ingress]; exact hs.ingress k, fun src => (orders src).trans (hs.orders src), fun g => ?_⟩
  cases h with
  | fetched h tag n hop i _ head free fresh opens room =>
    rw [forwardFetch_egress]
    split
    · next e =>
      rw [e, List.length_append, List.length_singleton]
      exact room
    · exact hs.egress g
  | posted h d hop k _ opens room =>
    rw [placePost_egress]
    split
    · rw [List.length_append, List.length_singleton]
      exact room fit
    · exact hs.egress g

/-- Windows fit, and queues keep to their places. -/
def PlacesKept (s : State) : Prop := WindowsFit s ∧ QueuesFit s

theorem PlacesKept.elsewhere {s t : State} (fit : WindowsFit t) (hs : QueuesFit s) (h : Elsewhere s t) (orders : PlacesFall s t) :
    PlacesKept t :=
  ⟨fit, hs.fewer (fun k => by rw [h.ingress]) orders fun g => by rw [h.egress]⟩

theorem movesKeep_placesKept : MovesKeep PlacesKept where
  quiet h hs := ⟨hs.1.of_windows h.directory.windows, h.queuesFit hs.2⟩
  queue h hs := ⟨hs.1.of_windows h.directory.windows, h.queuesFit hs.2⟩
  flow h hs := ⟨hs.1.of_windows h.stand.windows, h.queuesFit hs.1 hs.2⟩
  decision h hs := .elsewhere (h.windowsFit hs.1) hs.2 h.elsewhere h.places
  drains h hs :=
    have fits := completeDrains_keeps (P := WindowsFit)
      (fun j u _ hu => (hu.carryOutPurpose j.handle.slot).of_dir (completeJob_dir j u)) _ (hs.1.of_windows h.directory.windows)
    have before := keeps_ebbs (P := QueuesFit) Quiet.queuesFit QueueMove.queuesFit Ebb.queuesFit h hs.2
    .elsewhere fits before (drainsEnd_completeDrains _).elsewhere (placesFall_completeDrains _)

theorem queuesFit_powerOnValues (ph : Phase) (cause : ResetCause) (s : State) : QueuesFit (powerOnValues ph cause s) where
  ingress h := by
    rw [((powerOnValues_hold ph cause s).hosts h).1]
    exact Nat.zero_le _
  orders src := by
    rw [((powerOnValues_hold ph cause s).sources src).1]
    exact Nat.zero_le _
  egress g := by
    rw [powerOnValues_egress]
    exact Nat.zero_le _

/-- Settles O14: each queue grows by one at a free place alone, which for a mirrored POST needs its two queues to differ. -/
theorem queuesFitKept : Obligations.QueuesFitKept := by
  unfold Obligations.QueuesFitKept
  intro s t fit hs h
  have both : PlacesKept t := step_keeps_of_notify movesKeep_placesKept
    (fun before prompt u hu =>
      .elsewhere (hu.1.of_dir (notify_dir ..)) hu.2 (elsewhere_notify before prompt u) (.same (by rw [notify_eng])))
    (fun ph cause u _ => ⟨windowsFit_powerOnValues ph cause u, queuesFit_powerOnValues ph cause u⟩)
    (fun _ _ hu => .elsewhere hu.1 hu.2 (.same rfl rfl rfl) (.same rfl)) ⟨fit, hs⟩ h
  exact both.2

end Sys2Proof.Machine
end

section
/-! PROOFS. In-flight counts: everything that names a route, gathered in one multiset, and what each move does to it and to the
counts. -/

namespace Sys2Proof.Machine

/-! ### What names a route (R21) -/

/-- The route that an entry names. -/
def entryRoutes (e : Entry) : Multiset Route :=
  match e.state with
  | .waiting w => {w.route}
  | _ => 0

/-- The routes that the POSTs of a queue name. -/
def queueRoutes (q : List EgressPacket) : Multiset Route := (q.filterMap namedRoute : List Route)

/-- The routes that the egress queues name. -/
def egressRoutes (s : State) : Multiset Route := (TargetId.all.map fun g => queueRoutes (s.egress g)).sum

/-- Everything that names a route, once for each. -/
def routesNamed (s : State) : Multiset Route := ∑ i, entryRoutes (s.entry i) + egressRoutes s

theorem countP_eq_sum {α : Type} (p : α → Bool) (l : List α) : l.countP p = (l.map fun x => if p x then 1 else 0).sum := by
  induction l with
  | nil => rfl
  | cons x l ih => rw [List.countP_cons, List.map_cons, List.sum_cons, ih, add_comm]

theorem count_entryRoutes (s : State) (r : Route) :
    (∑ i, entryRoutes (s.entry i)).count r = entriesNaming s (· == r) := by
  unfold entriesNaming
  rw [Multiset.count_sum', countP_eq_sum, ← Fin.sum_univ_def]
  refine Finset.sum_congr rfl fun i _ => ?_
  unfold entryRoutes
  cases (s.entry i).state with
  | free => simp
  | waiting w => simp only [Multiset.count_singleton, beq_iff_eq, eq_comm (a := r)]
  | answered a => simp

theorem count_queueRoutes (q : List EgressPacket) (r : Route) :
    (queueRoutes q).count r = q.countP fun pkt => ((namedRoute pkt).map (· == r)).getD false := by
  unfold queueRoutes
  rw [Multiset.coe_count, List.count, List.countP_filterMap]

theorem count_egressRoutes (s : State) (r : Route) : (egressRoutes s).count r = packetsNaming s (· == r) := by
  unfold egressRoutes packetsNaming
  simp only [TargetId.all, List.map_cons, List.map_nil, List.sum_cons, List.sum_nil, Multiset.count_add, Multiset.count_zero,
    count_queueRoutes]

theorem count_routesNamed (s : State) (r : Route) : (routesNamed s).count r = inFlight s r := by
  unfold routesNamed inFlight
  rw [Multiset.count_add, count_entryRoutes, count_egressRoutes]

theorem mem_routesNamed (s : State) (r : Route) : r ∈ routesNamed s ↔ Named s r := by
  unfold routesNamed Named
  rw [Multiset.mem_add, Multiset.mem_sum]
  refine or_congr ?_ ?_
  · constructor
    · rintro ⟨i, _, hi⟩
      unfold entryRoutes at hi
      split at hi
      · next w hw => exact ⟨i, w, hw, (Multiset.mem_singleton.1 hi).symm⟩
      · simp at hi
    · rintro ⟨i, w, hw, rfl⟩
      exact ⟨i, Finset.mem_univ i, by simp [entryRoutes, hw]⟩
  · have queue : ∀ g, r ∈ queueRoutes (s.egress g) ↔ ∃ pkt ∈ s.egress g, namedRoute pkt = some r := fun g => by
      simp [queueRoutes]
    simp only [egressRoutes, TargetId.all, List.map_cons, List.map_nil, List.sum_cons, List.sum_nil, Multiset.mem_add,
      Multiset.notMem_zero, or_false, queue]
    constructor
    · rintro (h | h | h | h)
      · exact ⟨.t0, h⟩
      · exact ⟨.t1, h⟩
      · exact ⟨.t2, h⟩
      · exact ⟨.t3, h⟩
    · rintro ⟨g, h⟩
      cases g
      · exact .inl h
      · exact .inr (.inl h)
      · exact .inr (.inr (.inl h))
      · exact .inr (.inr (.inr h))

theorem routesNamed_congr {s t : State} (entries : ∀ i, entryRoutes (t.entry i) = entryRoutes (s.entry i))
    (queues : ∀ g, queueRoutes (t.egress g) = queueRoutes (s.egress g)) : routesNamed t = routesNamed s := by
  unfold routesNamed egressRoutes
  simp only [entries, queues]

/-- One entry's name differs. -/
theorem routesNamed_entry {s t : State} {i : Fin Config.replyEntries}
    (others : ∀ k, k ≠ i → entryRoutes (t.entry k) = entryRoutes (s.entry k))
    (queues : ∀ g, queueRoutes (t.egress g) = queueRoutes (s.egress g)) :
    routesNamed t + entryRoutes (s.entry i) = routesNamed s + entryRoutes (t.entry i) := by
  have rest : ∑ k ∈ Finset.univ.erase i, entryRoutes (t.entry k) = ∑ k ∈ Finset.univ.erase i, entryRoutes (s.entry k) :=
    Finset.sum_congr rfl fun k hk => others k (Finset.ne_of_mem_erase hk)
  have egress : egressRoutes t = egressRoutes s := by
    unfold egressRoutes
    simp only [queues]
  unfold routesNamed
  rw [egress, ← Finset.add_sum_erase _ (fun k => entryRoutes (t.entry k)) (Finset.mem_univ i),
    ← Finset.add_sum_erase _ (fun k => entryRoutes (s.entry k)) (Finset.mem_univ i), rest]
  abel

/-- One queue's names differ. -/
theorem routesNamed_queue {s t : State} {g : TargetId} (entries : ∀ i, entryRoutes (t.entry i) = entryRoutes (s.entry i))
    (others : ∀ k, k ≠ g → queueRoutes (t.egress k) = queueRoutes (s.egress k)) :
    routesNamed t + queueRoutes (s.egress g) = routesNamed s + queueRoutes (t.egress g) := by
  have egress : egressRoutes t + queueRoutes (s.egress g) = egressRoutes s + queueRoutes (t.egress g) := by
    simp only [egressRoutes, TargetId.all, List.map_cons, List.map_nil, List.sum_cons, List.sum_nil]
    cases g with
    | t0 => rw [others .t1 (by decide), others .t2 (by decide), others .t3 (by decide)]; abel
    | t1 => rw [others .t0 (by decide), others .t2 (by decide), others .t3 (by decide)]; abel
    | t2 => rw [others .t0 (by decide), others .t1 (by decide), others .t3 (by decide)]; abel
    | t3 => rw [others .t0 (by decide), others .t1 (by decide), others .t2 (by decide)]; abel
  unfold routesNamed
  simp only [entries]
  rw [add_assoc, egress, add_assoc]

/-! ### Counts over what names a route -/

/-- The counts are those of a multiset of routes, whose windows are the ones now in their slots (R4, R12, R21). -/
structure CountsAre (names : Multiset Route) (s : State) : Prop where
  windows : ∀ i, (s.slot i).count = names.count (.window ⟨i, (s.slot i).generation⟩)
  fallback : s.dir.fallbackCount = names.count .fallback
  current : ∀ h, .window h ∈ names → h.generation = (s.slot h.slot).generation
  free : ∀ i, (s.slot i).window = none → (s.slot i).count = 0
  staged : ∀ i w, (s.slot i).window = some w → w.state = .staged → (s.slot i).count = 0

theorem countsMatch_iff (s : State) : CountsMatch s ↔ CountsAre (routesNamed s) s := by
  constructor
  · intro h
    exact ⟨fun i => by rw [count_routesNamed]; exact h.windows i, by rw [count_routesNamed]; exact h.fallback,
      fun k hk => h.current k ((mem_routesNamed ..).1 hk), h.free, h.staged⟩
  · intro h
    exact ⟨fun i => by rw [← count_routesNamed]; exact h.windows i, by rw [← count_routesNamed]; exact h.fallback,
      fun k hk => h.current k ((mem_routesNamed ..).2 hk), h.free, h.staged⟩

theorem CountsAre.of_dir {names : Multiset Route} {s t : State} (hs : CountsAre names s) (h : t.dir = s.dir) :
    CountsAre names t := by
  have slot := slot_of_dir h
  refine ⟨fun i => ?_, ?_, fun k hk => ?_, fun i => ?_, fun i => ?_⟩
  · rw [slot]; exact hs.windows i
  · rw [h]; exact hs.fallback
  · rw [slot]; exact hs.current k hk
  · rw [slot]; exact hs.free i
  · rw [slot]; exact hs.staged i

/-- A slot keeps generation and count, and is not FREE or STAGED with a count above zero. -/
theorem CountsAre.kept {names : Multiset Route} {i : Fin Config.slots} {s t : State} (hs : CountsAre names s)
    (others : ∀ k, k ≠ i → t.slot k = s.slot k) (fallback : t.dir.fallbackCount = s.dir.fallbackCount)
    (generation : (t.slot i).generation = (s.slot i).generation) (count : (t.slot i).count = (s.slot i).count)
    (free : (t.slot i).window = none → (s.slot i).count = 0)
    (staged : ∀ w, (t.slot i).window = some w → w.state = .staged → (s.slot i).count = 0) : CountsAre names t := by
  refine ⟨fun k => ?_, fallback.trans hs.fallback, fun h hh => ?_, fun k hk => ?_, fun k w hw hst => ?_⟩
  · by_cases e : k = i
    · rw [e, count, generation]; exact hs.windows i
    · rw [others k e]; exact hs.windows k
  · by_cases e : h.slot = i
    · rw [hs.current h hh, e, generation]
    · rw [others _ e]; exact hs.current h hh
  · by_cases e : k = i
    · subst e; rw [count]; exact free hk
    · rw [others k e] at hk ⊢; exact hs.free k hk
  · by_cases e : k = i
    · subst e; rw [count]; exact staged w hw hst
    · rw [others k e] at hw ⊢; exact hs.staged k w hw hst

/-- A slot without traffic is named by nothing, so that its generation may change. -/
theorem CountsAre.renewed {names : Multiset Route} {i : Fin Config.slots} {s t : State} (hs : CountsAre names s)
    (others : ∀ k, k ≠ i → t.slot k = s.slot k) (fallback : t.dir.fallbackCount = s.dir.fallbackCount)
    (before : (s.slot i).count = 0) (after : (t.slot i).count = 0) : CountsAre names t := by
  have unnamed : ∀ h : Handle, h.slot = i → .window h ∉ names := by
    intro h slot hh
    have handle : (⟨i, (s.slot i).generation⟩ : Handle) = h := by rw [← slot, ← hs.current h hh]
    have zero := hs.windows i
    rw [before, handle] at zero
    exact (Multiset.count_pos.2 hh).ne zero
  refine ⟨fun k => ?_, fallback.trans hs.fallback, fun h hh => ?_, fun k hk => ?_, fun k w hw hst => ?_⟩
  · by_cases e : k = i
    · rw [e, after, Multiset.count_eq_zero_of_notMem (unnamed _ rfl)]
    · rw [others k e]; exact hs.windows k
  · by_cases e : h.slot = i
    · exact absurd hh (unnamed h e)
    · rw [others _ e]; exact hs.current h hh
  · by_cases e : k = i
    · rw [e, after]
    · rw [others k e] at hk ⊢; exact hs.free k hk
  · by_cases e : k = i
    · rw [e, after]
    · rw [others k e] at hw ⊢; exact hs.staged k w hw hst

theorem CountsAre.raise {names : Multiset Route} {r : Route} {s : State} (hs : CountsAre names s) (stands : RouteStands s r) :
    CountsAre (r ::ₘ names) (raiseCount r s) := by
  cases r with
  | fallback =>
    refine ⟨fun i => ?_, ?_, fun h hh => ?_, hs.free, hs.staged⟩
    · rw [Multiset.count_cons_of_ne (by simp)]
      exact hs.windows i
    · rw [Multiset.count_cons_self, ← hs.fallback]
      rfl
    · rcases Multiset.mem_cons.1 hh with e | hh
      · cases e
      · exact hs.current h hh
  | window h =>
    obtain ⟨generation, w, hw, live⟩ := stands
    have slot : ∀ k, (raiseCount (.window h) s).slot k =
        if k = h.slot then { s.slot h.slot with count := (s.slot h.slot).count + 1 } else s.slot k :=
      State.setSlot_slot s h.slot _
    refine ⟨fun k => ?_, ?_, fun k hk => ?_, fun k hk => ?_, fun k v hv hst => ?_⟩
    · rw [slot]
      split
      · next e =>
        subst e
        have this : (⟨h.slot, (s.slot h.slot).generation⟩ : Handle) = h := by rw [generation]
        dsimp only
        rw [hs.windows, this, Multiset.count_cons_self]
      · next e =>
        rw [Multiset.count_cons_of_ne (by rintro ⟨⟩; exact e rfl)]
        exact hs.windows k
    · rw [Multiset.count_cons_of_ne (by simp)]
      exact hs.fallback
    · rw [slot]
      rcases Multiset.mem_cons.1 hk with e | hk
      · cases e
        rw [if_pos rfl]
        exact generation.symm
      · have old := hs.current k hk
        split
        · next e => rw [old, e]
        · exact old
    · rw [slot] at hk ⊢
      split at hk
      · rw [hw] at hk; cases hk
      · next e => rw [if_neg e]; exact hs.free k hk
    · rw [slot] at hv ⊢
      split at hv
      · rw [hw] at hv
        cases hv
        rw [live] at hst
        cases hst
      · next e => rw [if_neg e]; exact hs.staged k v hv hst

theorem CountsAre.lower {names : Multiset Route} {r : Route} {s : State} (hs : CountsAre (r ::ₘ names) s) :
    CountsAre names (lowerCount r s) := by
  cases r with
  | fallback =>
    refine ⟨fun i => ?_, ?_, fun h hh => hs.current h (Multiset.mem_cons_of_mem hh), hs.free, hs.staged⟩
    · rw [← Multiset.count_cons_of_ne (b := .fallback) (by simp)]
      exact hs.windows i
    · have count := hs.fallback
      rw [Multiset.count_cons_self] at count
      change s.dir.fallbackCount - 1 = _
      omega
  | window h =>
    have generation := hs.current h (Multiset.mem_cons_self _ _)
    have slot : ∀ k, (lowerCount (.window h) s).slot k =
        if k = h.slot then { s.slot h.slot with count := (s.slot h.slot).count - 1 } else s.slot k :=
      State.setSlot_slot s h.slot _
    refine ⟨fun k => ?_, ?_, fun k hk => ?_, fun k hk => ?_, fun k v hv hst => ?_⟩
    · rw [slot]
      split
      · next e =>
        subst e
        have this : (⟨h.slot, (s.slot h.slot).generation⟩ : Handle) = h := by rw [← generation]
        have count := hs.windows h.slot
        rw [this, Multiset.count_cons_self] at count
        dsimp only
        rw [this, count]
        rfl
      · next e =>
        rw [hs.windows, Multiset.count_cons_of_ne (by rintro ⟨⟩; exact e rfl)]
    · have count := hs.fallback
      rw [Multiset.count_cons_of_ne (by simp)] at count
      exact count
    · have old := hs.current k (Multiset.mem_cons_of_mem hk)
      rw [slot]
      split
      · next e => rw [old, e]
      · exact old
    · rw [slot] at hk ⊢
      split at hk
      · next e =>
        rw [if_pos e]
        dsimp only
        rw [hs.free h.slot hk]
      · next e => rw [if_neg e]; exact hs.free k hk
    · rw [slot] at hv ⊢
      split at hv
      · next e =>
        rw [if_pos e]
        dsimp only
        rw [hs.staged h.slot v hv hst]
      · next e => rw [if_neg e]; exact hs.staged k v hv hst

/-- Packets that leave lower the counts that they name. -/
theorem CountsAre.lowerAll {names : Multiset Route} (q : List EgressPacket) {s : State}
    (hs : CountsAre (names + queueRoutes q) s) : CountsAre names (q.foldl (fun u pkt => lowerCountOf pkt u) s) := by
  induction q generalizing s with
  | nil => simpa [queueRoutes] using hs
  | cons pkt q ih =>
    rw [List.foldl_cons]
    refine ih ?_
    cases pkt with
    | fetch i ep a n => exact hs
    | post r o a d =>
      refine CountsAre.lower (r := r) ?_
      have split : queueRoutes (.post r o a d :: q) = r ::ₘ queueRoutes q := rfl
      rw [split, Multiset.add_cons] at hs
      exact hs

/-! ### Moves and counts -/

theorem CountsMatch.same {s t : State} (hs : CountsMatch s) (dir : t.dir = s.dir)
    (entries : ∀ i, entryRoutes (t.entry i) = entryRoutes (s.entry i))
    (queues : ∀ g, queueRoutes (t.egress g) = queueRoutes (s.egress g)) : CountsMatch t := by
  rw [countsMatch_iff] at hs ⊢
  rw [routesNamed_congr entries queues]
  exact hs.of_dir dir

theorem entryRoutes_free {e : Entry} (h : e.state = .free) : entryRoutes e = 0 := by simp [entryRoutes, h]

theorem entryRoutes_answered {e : Entry} {a : Answered} (h : e.state = .answered a) : entryRoutes e = 0 := by
  simp [entryRoutes, h]

theorem entryRoutes_waiting {e : Entry} {w : Waiting} (h : e.state = .waiting w) : entryRoutes e = {w.route} := by
  simp [entryRoutes, h]

theorem entryRoutes_orphaned (h : HostId) (e : Entry) : entryRoutes (orphanedEntry h e) = entryRoutes e := by
  unfold orphanedEntry
  split
  · next w hw =>
    split
    · rw [entryRoutes_waiting hw]
      rfl
    · rfl
  · next a ha =>
    split
    · rw [entryRoutes_answered ha]
      rfl
    · rfl
  · rfl

theorem EntriesMove.routes {s t : State} (h : EntriesMove s t) (k : Fin Config.replyEntries) :
    entryRoutes (t.entry k) = entryRoutes (s.entry k) := by
  cases h with
  | stand entry => rw [entry]
  | refused h tag st i free fresh entry =>
    rw [entry]
    split
    · next e =>
      rw [e, entryRoutes_free free]
      rfl
    · rfl
  | freed i h =>
    obtain ⟨⟨a, ha⟩, entry⟩ := h
    rw [entry]
    split
    · next e =>
      rw [e, entryRoutes_answered ha]
      rfl
    · rfl
  | orphaned h entry => rw [entry, entryRoutes_orphaned]

theorem queueRoutes_noPost {q : List EgressPacket} (h : ∀ pkt ∈ q, isPost pkt = false) : queueRoutes q = 0 := by
  have none : q.filterMap namedRoute = [] := List.filterMap_eq_nil_iff.2 fun pkt hpkt => by
    cases pkt with
    | fetch i ep a n => rfl
    | post r o a d => cases h _ hpkt
  unfold queueRoutes
  rw [none]
  rfl

theorem QueueMove.countsMatch {s t : State} (h : QueueMove s t) (hs : CountsMatch s) : CountsMatch t := by
  refine hs.same h.dir h.entries.routes fun g => ?_
  rcases h.egress g with e | ⟨e, noPost⟩
  · rw [e]
  · rw [e, queueRoutes_noPost noPost]
    rfl

theorem Quiet.countsMatch {s t : State} (h : Quiet s t) (hs : CountsMatch s) : CountsMatch t :=
  hs.same h.same.dir (fun i => by rw [h.same.entry]) fun g => by rw [h.same.egress_eq]

theorem queueRoutes_filterFetch (i : Fin Config.replyEntries) (q : List EgressPacket) :
    queueRoutes (q.filter fun pkt => !isFetchOf i pkt) = queueRoutes q := by
  unfold queueRoutes
  rw [List.filterMap_filter]
  congr 1
  refine List.filterMap_congr fun pkt _ => ?_
  cases pkt with
  | fetch j ep a n =>
    split <;> rfl
  | post r o a d => rfl

/-- What is picked and what is left make up what was named. -/
theorem queueRoutes_filter (picks : EgressPacket → Bool) (q : List EgressPacket) :
    queueRoutes (q.filter fun pkt => !picks pkt) + queueRoutes (q.filter picks) = queueRoutes q := by
  unfold queueRoutes
  rw [Multiset.coe_add, Multiset.coe_eq_coe, ← List.filterMap_append]
  exact List.Perm.filterMap _ (List.perm_append_comm.trans (List.filter_append_perm picks q))

theorem raiseCount_egressRoutes {s u : State} (r : Route) (h : ∀ g, queueRoutes (u.egress g) = queueRoutes (s.egress g))
    (g : TargetId) : queueRoutes ((raiseCount r u).egress g) = queueRoutes (s.egress g) := by
  rw [raiseCount_egress]
  exact h g

theorem leaveWaiting_dir {s : State} {i : Fin Config.replyEntries} {w : Waiting} (h : (s.entry i).state = .waiting w)
    (st : Status) (d : List Byte) : (leaveWaiting i st d s).dir = (lowerCount w.route s).dir := by
  have lowered : (lowerCount w.route (removeFetch w.target i s)).dir = (lowerCount w.route s).dir := by
    cases w.route <;> rfl
  rw [leaveWaiting_waiting h]
  split
  · exact lowered
  · exact lowered

theorem removePosts_dir (picks : EgressPacket → Bool) (g : TargetId) (s : State) :
    (removePosts picks g s).dir = (((s.egress g).filter picks).foldl (fun u pkt => lowerCountOf pkt u) s).dir := by
  unfold removePosts
  have congr : ∀ (l : List EgressPacket) (u v : State), u.dir = v.dir →
      (l.foldl (fun u pkt => lowerCountOf pkt u) u).dir = (l.foldl (fun u pkt => lowerCountOf pkt u) v).dir := by
    intro l
    induction l with
    | nil => exact fun _ _ h => h
    | cons pkt l ih =>
      intro u v h
      refine ih _ _ ?_
      cases pkt with
      | fetch i ep a n => exact h
      | post r o a d =>
        have slots := slot_of_dir h
        cases r with
        | fallback => simp only [lowerCountOf, lowerCount, State.setFallbackCount, h]
        | window k => simp only [lowerCountOf, lowerCount, State.setSlot, h, slots]
  exact congr _ _ _ rfl

theorem Ebb.countsMatch {s t : State} (h : Ebb s t) (hs : CountsMatch s) : CountsMatch t := by
  rw [countsMatch_iff] at hs ⊢
  cases h with
  | left i w st d _ waiting =>
    have entry := leaveWaiting_entry waiting st d
    have ended : entryRoutes ((leaveWaiting i st d s).entry i) = 0 := by
      rw [entry, if_pos rfl]
      split <;> rfl
    have names := routesNamed_entry (s := s) (t := leaveWaiting i st d s) (i := i)
      (fun k hk => by rw [entry, if_neg hk]) (fun g => by
        rw [leaveWaiting_egress waiting]
        split
        · exact queueRoutes_filterFetch ..
        · rfl)
    rw [ended, add_zero, entryRoutes_waiting waiting, add_comm, Multiset.singleton_add] at names
    rw [← names] at hs
    exact hs.lower.of_dir (leaveWaiting_dir waiting st d)
  | lost picks g =>
    have names := routesNamed_queue (s := s) (t := removePosts picks g s) (g := g)
      (fun k => by rw [removePosts_entry]) (fun k hk => by rw [removePosts_egress, if_neg hk])
    rw [removePosts_egress, if_pos rfl, ← queueRoutes_filter picks (s.egress g), add_comm (queueRoutes _), ← add_assoc] at names
    rw [← add_right_cancel names] at hs
    exact (hs.lowerAll _).of_dir (removePosts_dir picks g s)
  | delivered g pkt rest _ queue =>
    have names := routesNamed_queue (s := s) (t := deliverHead g pkt s) (g := g)
      (fun k => by rw [deliverHead, (lowerCountOf_spec pkt _).entry]; rfl)
      (fun k hk => by rw [deliverHead_egress queue, if_neg hk])
    have split : queueRoutes (pkt :: rest) = queueRoutes rest + queueRoutes [pkt] := by
      unfold queueRoutes
      rw [Multiset.coe_add, Multiset.coe_eq_coe, ← List.filterMap_append]
      exact List.Perm.filterMap _ (List.perm_append_singleton pkt rest).symm
    rw [deliverHead_egress queue, if_pos rfl, queue, split, add_comm (queueRoutes rest), ← add_assoc] at names
    rw [← add_right_cancel names] at hs
    refine (hs.lowerAll [pkt]).of_dir ?_
    cases pkt with
    | fetch i ep a n => rfl
    | post r o a d => cases r <;> rfl

theorem Flow.countsMatch {s t : State} (h : Flow s t) (hs : CountsMatch s) : CountsMatch t := by
  rw [countsMatch_iff] at hs ⊢
  cases h with
  | fetched h tag n hop i _ head free fresh opens room stands =>
    have entry := forwardFetch_entry h tag n hop i (s := s)
    have names := routesNamed_entry (s := s) (t := forwardFetch h tag n hop i s) (i := i)
      (fun k hk => by rw [entry, if_neg hk]) (fun g => by
        rw [forwardFetch_egress]
        split
        · unfold queueRoutes
          rw [List.filterMap_append, List.filterMap_cons_none (f := namedRoute) rfl, List.filterMap_nil, List.append_nil]
        · rfl)
    have waits : entryRoutes ((forwardFetch h tag n hop i s).entry i) = {hop.route} := by
      rw [entry, if_pos rfl]
      rfl
    rw [entryRoutes_free free, waits, add_zero, add_comm, Multiset.singleton_add] at names
    rw [names]
    refine (hs.raise stands).of_dir ?_
    unfold forwardFetch
    cases hop.route <;> rfl
  | posted h d hop g _ opens room stands =>
    have names := routesNamed_queue (s := s) (t := placePost h d hop g s) (g := g)
      (fun k => by rw [placePost_entry]) (fun k hk => by rw [placePost_egress, if_neg hk])
    have joined : queueRoutes (s.egress g ++ [.post hop.route h hop.address d]) = hop.route ::ₘ queueRoutes (s.egress g) := by
      unfold queueRoutes
      rw [List.filterMap_append, ← Multiset.coe_add, add_comm]
      rfl
    rw [placePost_egress, if_pos rfl, joined, Multiset.add_cons, ← Multiset.cons_add] at names
    rw [add_right_cancel names]
    refine (hs.raise stands).of_dir ?_
    unfold placePost
    cases hop.route <;> rfl

theorem restoreWindow_fallbackCount (i : Fin Config.slots) (s : State) :
    (restoreWindow i s).dir.fallbackCount = s.dir.fallbackCount := by
  unfold restoreWindow
  split
  · split <;> rfl
  · rfl

theorem reserve_fallbackCount (c : PendingChange) (s : State) : (reserve c s).dir.fallbackCount = s.dir.fallbackCount := by
  cases c <;> rfl

theorem DrainsEnd.fallbackCount {s t : State} (h : DrainsEnd s t) : t.dir.fallbackCount = s.dir.fallbackCount := by rw [h.rest]

theorem CountsAre.setWindow {names : Multiset Route} {i : Fin Config.slots} {w : Window} {s : State} (hs : CountsAre names s)
    (live : w.state ≠ .staged) : CountsAre names (setWindow i w s) := by
  have slot : (Machine.setWindow i w s).slot i = { s.slot i with window := some w } := State.setSlot_slot_self ..
  refine hs.kept (slotOnly_setSlot i _ s).others rfl (by rw [slot]) (by rw [slot]) (fun none => ?_) fun v hv hst => ?_
  · rw [slot] at none
    cases none
  · rw [slot] at hv
    cases hv
    exact absurd hst live

theorem Decision.counts {names : Multiset Route} {s t : State} (h : Decision s t) (hs : CountsAre names s) :
    CountsAre names t := by
  cases h with
  | fallback f => exact ⟨hs.windows, hs.fallback, hs.current, hs.free, hs.staged⟩
  | rights h r a => exact hs.of_dir rfl
  | filled i w _ _ free =>
    exact hs.renewed (slotOnly_setSlot i _ s).others rfl (hs.free i free) (by rw [State.setSlot_slot_self])
  | activated i w => exact hs.setWindow (by simp)
  | locked i w _ _ window live => exact hs.setWindow (w := { w with locked := true }) (by simp [live])
  | changed i w c _ _ window settled fits =>
    have slot := applyChange_slot i c w (reserve c s)
    rw [reserve_slot] at slot
    refine hs.kept ((slotOnly_reserve i c s).trans (slotOnly_applyChange i c w _)).others ?_ (by rw [slot]) (by rw [slot])
      (fun none => ?_) fun v hv hst => ?_
    · rw [(drainsEnd_applyChange ..).fallbackCount, reserve_fallbackCount]
    · rw [slot] at none
      cases none
    · rw [slot] at hv
      cases hv
      rw [changed_state] at hst
      exact hs.staged i w window hst
  | drains i w c m src e =>
    refine CountsAre.of_dir (s := Machine.setWindow i { w with state := .drainChange c } (reserve c s)) ?_ (startDrain_dir ..)
    have reserved : CountsAre names (reserve c s) :=
      ⟨fun k => by rw [reserve_slot]; exact hs.windows k, by rw [reserve_fallbackCount]; exact hs.fallback,
        fun k hk => by rw [reserve_slot]; exact hs.current k hk, fun k => by rw [reserve_slot]; exact hs.free k,
        fun k => by rw [reserve_slot]; exact hs.staged k⟩
    exact reserved.setWindow (by simp)
  | retires i w m src e =>
    refine CountsAre.of_dir (s := Machine.setWindow i { w with state := .drainRetire } s) ?_ (startDrain_dir ..)
    exact hs.setWindow (by simp)
  | freed i w _ _ window settled =>
    have zero : (s.slot i).count = 0 := by
      rcases settled with staged | ⟨_, zero⟩
      · exact hs.staged i w window staged
      · exact zero
    exact hs.renewed (slotOnly_freeSlot i s).others (drainsEnd_freeSlot i s).fallbackCount zero
      (((drainsEnd_freeSlot i s).counts i).trans zero)
  | abandoned j =>
    refine CountsAre.of_dir (s := restoreWindow j.handle.slot s) ?_ (abandonJob_dir j s)
    by_cases hd : ∃ w, (s.slot j.handle.slot).window = some w ∧ isDraining w.state = true
    · obtain ⟨w, hw, draining⟩ := hd
      have slot := (restoreWindow_draining hw draining).1
      refine hs.kept (slotOnly_restoreWindow _ s).others (restoreWindow_fallbackCount ..) (by rw [slot]) (by rw [slot])
        (fun none => ?_) fun v hv hst => ?_
      · rw [slot] at none
        cases none
      · rw [slot] at hv
        cases hv
        cases hst
    · rw [restoreWindow_other fun w hw => by simpa using fun draining => hd ⟨w, hw, draining⟩]
      exact hs

theorem Elsewhere.routes {s t : State} (h : Elsewhere s t) : routesNamed t = routesNamed s :=
  routesNamed_congr (fun i => by rw [h.entry]) fun g => by rw [h.egress]

/-- A job completes at a count of zero, when nothing names its window. -/
theorem CountsMatch.completeJob {s : State} (hs : CountsMatch s) {j : DrainJob} (zero : (s.slot j.handle.slot).count = 0) :
    CountsMatch (completeJob j s) := by
  rw [countsMatch_iff] at hs ⊢
  rw [(drainsEnd_completeJob j s).elsewhere.routes]
  exact hs.renewed (fun k hk => by rw [completeJob_slot, if_neg hk]) (drainsEnd_completeJob j s).fallbackCount zero
    (((drainsEnd_completeJob j s).counts _).trans zero)

theorem movesKeep_countsMatch : MovesKeep CountsMatch where
  quiet h hs := h.countsMatch hs
  queue h hs := h.countsMatch hs
  flow h hs := h.countsMatch hs
  decision h hs := by
    rw [countsMatch_iff] at hs ⊢
    rw [h.elsewhere.routes]
    exact h.counts hs
  drains h hs :=
    have before := keeps_ebbs (P := CountsMatch) Quiet.countsMatch QueueMove.countsMatch Ebb.countsMatch h hs
    completeDrains_keeps (P := CountsMatch) (fun _ _ zero hu => hu.completeJob zero) _ before

theorem countsMatch_powerOnValues (ph : Phase) (cause : ResetCause) (s : State) : CountsMatch (powerOnValues ph cause s) := by
  have values := powerOnValues_hold ph cause s
  have unnamed : routesNamed (powerOnValues ph cause s) = 0 := by
    unfold routesNamed egressRoutes
    simp only [entryRoutes_free (powerOnValues_free ph cause s _), powerOnValues_egress]
    rfl
  rw [countsMatch_iff, unnamed]
  refine ⟨fun i => ?_, values.pool.2.2, fun h hh => ?_, fun i _ => ?_, fun i w hw => ?_⟩
  · rw [values.slots]
    rfl
  · simp at hh
  · rw [values.slots]
  · rw [powerOnValues_window] at hw
    cases hw

/-- Settles O8: a count rises as a route comes to be named, falls as it ceases to be, and a slot's generation changes at a count
of zero alone. -/
theorem countsMatchKept : Obligations.CountsMatchKept := by
  unfold Obligations.CountsMatchKept
  intro s t hs h
  exact step_keeps_of_notify movesKeep_countsMatch
    (fun before prompt u hu => hu.same (notify_dir ..) (fun i => by rw [notify_entry]) fun g => by rw [notify_egress])
    (fun ph cause u _ => countsMatch_powerOnValues ph cause u) (fun _ _ hu => hu.same rfl (fun _ => rfl) fun _ => rfl) hs h

end Sys2Proof.Machine
end

section
/-! PROOFS. Ports that are not UP hold nothing of a session. -/

namespace Sys2Proof.Machine

/-! ### Writes to ports -/

theorem returns_setReturns (s : State) (src k : Source) (q : List ReturnPacket) :
    (s.setReturns src q).returns k = if k = src then q else s.returns k := PerSource.get_set _ _ _ _

theorem returns_pushReturn (src k : Source) (pkt : ReturnPacket) (s : State) :
    (pushReturn src pkt s).returns k = if k = src then s.returns k ++ [pkt] else s.returns k := by
  unfold pushReturn
  rw [returns_setReturns]
  split
  · next e => rw [e]
  · rfl

theorem link_setLink (s : State) (p k : Port) (l : LinkState) :
    (s.setLink p l).link k = if k = p then l else s.link k := PerPort.get_set _ _ _ _

theorem mark_setMark (s : State) (h k : HostId) (m : WaitMark) :
    (s.setMark h m).mark k = if k = h then m else s.mark k := PerHost.get_set _ _ _ _

/-! ### Session ends, field by field -/

section sessionEnds

variable (h : HostId) (l : LinkState) (n : Nat) (s : State)

theorem endHostSession_ingress (k : HostId) :
    (endHostSession h n (s.setLink (.host h) l)).ingress k = if k = h then [] else s.ingress k := by
  rw [endHostSession_eq]
  exact PerHost.get_set ..

theorem endHostSession_mark (k : HostId) :
    (endHostSession h n (s.setLink (.host h) l)).mark k = if k = h then .clear else s.mark k := by
  rw [endHostSession_eq]
  exact PerHost.get_set ..

theorem endHostSession_entry (i : Fin Config.replyEntries) :
    (endHostSession h n (s.setLink (.host h) l)).entry i = orphanedEntry h (s.entry i) := by
  rw [endHostSession_eq]
  exact Vector.getElem_ofFn i.isLt

theorem endHostSession_orders (k : Source) :
    (endHostSession h n (s.setLink (.host h) l)).orders k = if k = .host h then silenced (s.orders (.host h)) else s.orders k := by
  rw [endHostSession_eq]
  exact PerSource.get_set ..

theorem endHostSession_returns (k : Source) :
    (endHostSession h n (s.setLink (.host h) l)).returns k = if k = .host h then [] else s.returns k := by
  rw [endHostSession_eq]
  exact PerSource.get_set ..

theorem endHostSession_link (p : Port) :
    (endHostSession h n (s.setLink (.host h) l)).link p = if p = .host h then l else s.link p := by
  rw [endHostSession_eq]
  exact PerPort.get_set ..

theorem endHostSession_grantedRequest (k : HostId) :
    (endHostSession h n (s.setLink (.host h) l)).ports.grantedRequest.get k =
      if k = h then 0 else s.ports.grantedRequest.get k := by
  rw [endHostSession_eq]
  exact PerHost.get_set ..

theorem endHostSession_grantedOrder (k : Source) :
    (endHostSession h n (s.setLink (.host h) l)).ports.grantedOrder.get k =
      if k = .host h then 0 else s.ports.grantedOrder.get k := by
  rw [endHostSession_eq]
  exact PerSource.get_set ..

theorem endHostSession_ctl : (endHostSession h n (s.setLink (.host h) l)).ctl = s.ctl := by rw [endHostSession_eq]

theorem endMgmtSession_orders (k : Source) :
    (endMgmtSession n (s.setLink .mgmt l)).orders k = if k = .mgmt then silenced (s.orders .mgmt) else s.orders k := by
  rw [endMgmtSession_eq]
  exact PerSource.get_set ..

theorem endMgmtSession_returns (k : Source) :
    (endMgmtSession n (s.setLink .mgmt l)).returns k = if k = .mgmt then [] else s.returns k := by
  rw [endMgmtSession_eq]
  exact PerSource.get_set ..

theorem endMgmtSession_link (p : Port) : (endMgmtSession n (s.setLink .mgmt l)).link p = if p = .mgmt then l else s.link p := by
  rw [endMgmtSession_eq]
  exact PerPort.get_set ..

theorem endMgmtSession_grantedOrder (k : Source) :
    (endMgmtSession n (s.setLink .mgmt l)).ports.grantedOrder.get k = if k = .mgmt then 0 else s.ports.grantedOrder.get k := by
  rw [endMgmtSession_eq]
  exact PerSource.get_set ..

theorem endMgmtSession_fwd : (endMgmtSession n (s.setLink .mgmt l)).fwd = s.fwd := by rw [endMgmtSession_eq]

theorem endMgmtSession_table : (endMgmtSession n (s.setLink .mgmt l)).table = s.table := by rw [endMgmtSession_eq]

theorem endMgmtSession_ctl : (endMgmtSession n (s.setLink .mgmt l)).ctl = s.ctl := by rw [endMgmtSession_eq]

theorem endMgmtSession_grantedRequest :
    (endMgmtSession n (s.setLink .mgmt l)).ports.grantedRequest = s.ports.grantedRequest := by rw [endMgmtSession_eq]

end sessionEnds

theorem entry_of_table {s t : State} (h : t.table = s.table) (k : Fin Config.replyEntries) : t.entry k = s.entry k := by
  unfold State.entry
  rw [h]

theorem releaseSent_frees (src : Source) (pkt : ReturnPacket) (s : State) :
    (∀ k, (releaseSent src pkt s).entry k = s.entry k) ∨ ∃ i, FreesAnswered s (releaseSent src pkt s) i := by
  unfold releaseSent
  split
  · next i _ _ _ =>
    split
    · next a ha => exact .inr ⟨i, ⟨a, ha⟩, fun k => entry_setEntry _ i k _⟩
    · exact .inl (entry_of_table rfl)
  · split <;> exact .inl (entry_of_table rfl)
  · exact .inl (entry_of_table rfl)
  · exact .inl (entry_of_table rfl)

/-- The sending of a packet frees at most one entry, an ANSWERED one. -/
theorem sendHead_entries (src : Source) (pkt : ReturnPacket) (s : State) :
    (∀ k, (sendHead src pkt s).entry k = s.entry k) ∨ ∃ i, FreesAnswered s (sendHead src pkt s) i :=
  releaseSent_frees src pkt (sendAgainstCredit src.port (.back pkt) (s.setReturns src (s.returns src).tail))

theorem sendHead_tag (src : Source) (pkt : ReturnPacket) (s : State) (i : Fin Config.replyEntries) :
    currentTag ((sendHead src pkt s).entry i) = currentTag (s.entry i) ∨ currentTag ((sendHead src pkt s).entry i) = none := by
  rcases sendHead_entries src pkt s with entry | ⟨k, _, entry⟩
  · exact .inl (by rw [entry])
  · rw [entry]
    split
    · exact .inr rfl
    · exact .inl rfl

/-! ### Ports that are not UP (R148, R156 to R158, R178) -/

/-- A host has no request, no mark and no entry but orphans in the part. -/
structure HostEmpty (s : State) (h : HostId) : Prop where
  ingress : s.ingress h = []
  mark : s.mark h = .clear
  tags : ∀ i x, currentTag (s.entry i) = some x → x.1 ≠ h

/-- A source has silent TAKEN orders alone, and nothing to be sent to it. -/
structure SourceEmpty (s : State) (src : Source) : Prop where
  orders : ∀ e ∈ s.orders src, isTaken e = true ∧ e.silent = true
  returns : s.returns src = []

/-- Nothing is queued for a target, and no entry waits for it. -/
structure TargetEmpty (s : State) (g : TargetId) : Prop where
  egress : s.egress g = []
  waiting : ∀ i w, (s.entry i).state = .waiting w → w.target ≠ g

/-- The invariant, port by port. -/
structure DownEmpty (s : State) : Prop where
  host : ∀ h, s.link (.host h) ≠ .up → HostEmpty s h
  source : ∀ src, s.link src.port ≠ .up → SourceEmpty s src
  target : ∀ g, s.link (.target g) ≠ .up → TargetEmpty s g
  disabled : s.ctl.phase = .held ∨ s.ctl.phase = .startUp → ∀ p, s.link p = .down

theorem downPortsEmpty_iff (s : State) : DownPortsEmpty s ↔ DownEmpty s := by
  constructor
  · intro h
    exact ⟨fun k hk => ⟨(h.ingress k hk).1, (h.ingress k hk).2, h.entries k hk⟩,
      fun src hk => ⟨h.orders src hk, h.returns src hk⟩, fun g hk => ⟨h.egress g hk, h.waiting g hk⟩, h.disabled⟩
  · intro h
    exact ⟨fun k hk => ⟨(h.host k hk).ingress, (h.host k hk).mark⟩, fun k hk => (h.host k hk).tags,
      fun src hk => (h.source src hk).orders, fun src hk => (h.source src hk).returns, fun g hk => (h.target g hk).egress,
      fun g hk => (h.target g hk).waiting, h.disabled⟩

/-- A host with a request at the head of its queue is UP. -/
theorem DownEmpty.up_of_head {s : State} (hs : DownEmpty s) {h : HostId} (head : s.ingress h ≠ []) : s.link (.host h) = .up := by
  by_contra down
  exact head (hs.host h down).ingress

/-- A source with a QUEUED order is UP. -/
theorem DownEmpty.up_of_oldest {s : State} (hs : DownEmpty s) {src : Source} {e : OrderEntry}
    (oldest : oldestQueued s src = some e) : s.link src.port = .up := by
  by_contra down
  obtain ⟨taken, _⟩ := (hs.source src down).orders e (List.mem_of_find?_eq_some oldest)
  obtain ⟨i, hi⟩ := (isTaken_iff e).1 taken
  have queued := (isQueued_iff e).1 (List.find?_some oldest)
  rw [hi] at queued
  cases queued

theorem DownEmpty.up_of_tag {s : State} (hs : DownEmpty s) {i : Fin Config.replyEntries} {x : HostId × BitVec 8}
    (tag : currentTag (s.entry i) = some x) : s.link (.host x.1) = .up := by
  by_contra down
  exact (hs.host x.1 down).tags i x tag rfl

/-- Links and phase stand. -/
structure LinksStand (s t : State) : Prop where
  link : ∀ p, t.link p = s.link p
  phase : t.ctl.phase = s.ctl.phase

theorem LinksStand.same {s t : State} (link : t.ports.link = s.ports.link) (ctl : t.ctl.phase = s.ctl.phase) : LinksStand s t :=
  ⟨fun p => by unfold State.link; rw [link], ctl⟩

/-- With the links standing, it is enough that each port that is not UP stays empty. -/
theorem DownEmpty.stands {s t : State} (hs : DownEmpty s) (h : LinksStand s t)
    (host : ∀ k, s.link (.host k) ≠ .up → HostEmpty s k → HostEmpty t k)
    (source : ∀ src, s.link src.port ≠ .up → SourceEmpty s src → SourceEmpty t src)
    (target : ∀ g, s.link (.target g) ≠ .up → TargetEmpty s g → TargetEmpty t g) : DownEmpty t where
  host k hk := by rw [h.link] at hk; exact host k hk (hs.host k hk)
  source src hk := by rw [h.link] at hk; exact source src hk (hs.source src hk)
  target g hk := by rw [h.link] at hk; exact target g hk (hs.target g hk)
  disabled hp p := by rw [h.phase] at hp; rw [h.link]; exact hs.disabled hp p

theorem HostEmpty.same {s t : State} {h : HostId} (hs : HostEmpty s h) (fwd : t.fwd = s.fwd)
    (tag : ∀ i, currentTag (t.entry i) = currentTag (s.entry i) ∨ currentTag (t.entry i) = none) : HostEmpty t h where
  ingress := by unfold State.ingress; rw [fwd]; exact hs.ingress
  mark := by unfold State.mark; rw [fwd]; exact hs.mark
  tags i x hi := by
    rcases tag i with e | e
    · exact hs.tags i x (e ▸ hi)
    · rw [e] at hi; cases hi

theorem TargetEmpty.same {s t : State} {g : TargetId} (hs : TargetEmpty s g) (egress : (t.egress g).Sublist (s.egress g))
    (waiting : ∀ i w, (t.entry i).state = .waiting w → ∃ w', (s.entry i).state = .waiting w' ∧ w'.target = w.target) :
    TargetEmpty t g where
  egress := by
    rw [hs.egress] at egress
    exact List.sublist_nil.1 egress
  waiting i w hw := by
    obtain ⟨w', hw', target⟩ := waiting i w hw
    rw [← target]
    exact hs.waiting i w' hw'

theorem SourceEmpty.same {s t : State} {src : Source} (hs : SourceEmpty s src) (orders : t.orders src = s.orders src)
    (returns : t.returns src = s.returns src) : SourceEmpty t src :=
  ⟨by rw [orders]; exact hs.orders, by rw [returns]; exact hs.returns⟩

/-- Nothing that the invariant speaks of differs, but the phase. -/
structure DownSame (s t : State) : Prop where
  fwd : t.fwd = s.fwd
  entry : ∀ i, t.entry i = s.entry i
  orders : t.eng.orders = s.eng.orders
  link : t.ports.link = s.ports.link
  egress : t.ports.egress = s.ports.egress
  returns : t.ports.returns = s.ports.returns

section downSame

variable {s t : State} (h : DownSame s t)

include h

theorem DownSame.host {k : HostId} (hs : HostEmpty s k) : HostEmpty t k := hs.same h.fwd fun i => .inl (by rw [h.entry])

theorem DownSame.source {src : Source} (hs : SourceEmpty s src) : SourceEmpty t src :=
  hs.same (by unfold State.orders; rw [h.orders]) (by unfold State.returns; rw [h.returns])

theorem DownSame.target {g : TargetId} (hs : TargetEmpty s g) : TargetEmpty t g :=
  hs.same (by unfold State.egress; rw [h.egress]) fun i w hw => ⟨w, by rw [← h.entry]; exact hw, rfl⟩

theorem DownSame.downEmpty (phase : t.ctl.phase = s.ctl.phase) (hs : DownEmpty s) : DownEmpty t :=
  hs.stands (.same h.link phase) (fun _ _ => h.host) (fun _ _ => h.source) fun _ _ => h.target

end downSame

theorem Quiet.downSame {s t : State} (h : Quiet s t) : DownSame s t :=
  ⟨h.same.fwd, h.same.entry, h.same.orders, h.same.link, h.same.egress, h.same.returns⟩

/-- The phase stands, or is not before that ports are enabled, or start-up begins. -/
theorem Quiet.phase {s t : State} (h : Quiet s t) :
    t.ctl.phase = s.ctl.phase ∨ t.ctl.phase = .running ∨ t.ctl.phase = .unpowered ∨
      s.ctl.phase = .held ∧ t.ctl.phase = .startUp := by
  cases h with
  | release _ held => exact .inr (.inr (.inr ⟨held, rfl⟩))
  | enablePorts => exact .inr (.inl rfl)
  | unpowered => exact .inr (.inr (.inl rfl))
  | barred p b => cases p <;> exact .inl rfl
  | _ => exact .inl rfl

theorem Quiet.downEmpty {s t : State} (h : Quiet s t) (hs : DownEmpty s) : DownEmpty t := by
  have same := h.downSame
  have link : ∀ p, t.link p = s.link p := h.same.link_eq
  refine ⟨fun k hk => same.host (hs.host k (link _ ▸ hk)), fun src hk => same.source (hs.source src (link _ ▸ hk)),
    fun g hk => same.target (hs.target g (link _ ▸ hk)), fun hp p => ?_⟩
  rw [link]
  rcases h.phase with e | e | e | ⟨held, _⟩
  · exact hs.disabled (e ▸ hp) p
  · rw [e] at hp; rcases hp with hp | hp <;> cases hp
  · rw [e] at hp; rcases hp with hp | hp <;> cases hp
  · exact hs.disabled (.inl held) p

theorem running_not_disabled {s : State} (running : s.ctl.phase = .running) : ¬(s.ctl.phase = .held ∨ s.ctl.phase = .startUp) := by
  rw [running]
  rintro (h | h) <;> cases h

/-- A port's link goes to a new state on a running part: what is not UP besides it was not UP before. -/
theorem DownEmpty.relinked {s t : State} (hs : DownEmpty s) {p : Port} {l : LinkState}
    (link : ∀ k, t.link k = if k = p then l else s.link k) (running : t.ctl.phase = .running)
    (host : ∀ k, (.host k ≠ p → s.link (.host k) ≠ .up) → (.host k = p → l ≠ .up) →
      (s.link (.host k) ≠ .up → HostEmpty s k) → HostEmpty t k)
    (source : ∀ src, (src.port ≠ p → s.link src.port ≠ .up) → (src.port = p → l ≠ .up) →
      (s.link src.port ≠ .up → SourceEmpty s src) → SourceEmpty t src)
    (target : ∀ g, (.target g ≠ p → s.link (.target g) ≠ .up) → (.target g = p → l ≠ .up) →
      (s.link (.target g) ≠ .up → TargetEmpty s g) → TargetEmpty t g) : DownEmpty t := by
  have down : ∀ k, t.link k ≠ .up → (k ≠ p → s.link k ≠ .up) ∧ (k = p → l ≠ .up) := fun k hk => by
    rw [link] at hk
    exact ⟨fun e => by rwa [if_neg e] at hk, fun e => by rwa [if_pos e] at hk⟩
  exact ⟨fun k hk => host k (down _ hk).1 (down _ hk).2 (hs.host k), fun src hk => source src (down _ hk).1 (down _ hk).2 (hs.source src),
    fun g hk => target g (down _ hk).1 (down _ hk).2 (hs.target g), fun hp => absurd hp (running_not_disabled running)⟩

theorem isTaken_silent_of_silenced {q : List OrderEntry} : ∀ e ∈ silenced q, isTaken e = true ∧ e.silent = true := by
  intro e he
  obtain ⟨e', he', rfl⟩ := List.mem_map.1 he
  exact ⟨(List.mem_filter.1 he').2, rfl⟩

theorem releaseSent_link (src : Source) (pkt : ReturnPacket) (s : State) :
    (releaseSent src pkt s).ports.link = s.ports.link ∧ (releaseSent src pkt s).ports.returns = s.ports.returns := by
  unfold releaseSent
  split
  · split <;> exact ⟨rfl, rfl⟩
  · split <;> exact ⟨rfl, rfl⟩
  · exact ⟨rfl, rfl⟩
  · exact ⟨rfl, rfl⟩

theorem releaseSent_orders_other {src k : Source} (pkt : ReturnPacket) (s : State) (hk : k ≠ src) :
    (releaseSent src pkt s).orders k = s.orders k := by
  unfold releaseSent
  split
  · split <;> rfl
  · split
    · exact (orders_setOrders s src k _).trans (if_neg hk)
    · rfl
  · rfl
  · rfl

/-- After an entry has been freed or orphaned, what waits waited for the same target. -/
theorem EntriesMove.waiting {s t : State} (h : EntriesMove s t) {i : Fin Config.replyEntries} {w : Waiting}
    (hw : (t.entry i).state = .waiting w) : ∃ w', (s.entry i).state = .waiting w' ∧ w'.target = w.target := by
  cases h with
  | stand entry => exact ⟨w, entry i ▸ hw, rfl⟩
  | refused h tag st k free fresh entry =>
    rw [entry] at hw
    split at hw
    · cases hw
    · exact ⟨w, hw, rfl⟩
  | freed k h =>
    rw [h.2] at hw
    split at hw
    · cases hw
    · exact ⟨w, hw, rfl⟩
  | orphaned h entry =>
    rw [entry] at hw
    unfold orphanedEntry at hw
    split at hw
    · next w' hw' =>
      split at hw
      · cases hw
        exact ⟨w', hw', rfl⟩
      · exact ⟨w, hw, rfl⟩
    · next a ha =>
      split at hw
      · cases hw
      · rw [ha] at hw; cases hw
    · next hf => rw [hf] at hw; cases hw

theorem orphanedEntry_tag_ne {h : HostId} {e : Entry} {x : HostId × BitVec 8} (hx : currentTag (orphanedEntry h e) = some x) :
    x.1 ≠ h := by
  unfold orphanedEntry at hx
  rintro rfl
  split at hx
  · next w hw =>
    split at hx
    · cases hx
    · next other =>
      simp only [currentTag, hw] at hx
      split at hx
      · cases hx
      · cases hx
        exact other rfl
  · next a ha =>
    split at hx
    · cases hx
    · next other =>
      simp only [currentTag, ha] at hx
      cases hx
      exact other rfl
  · next hf =>
    simp only [currentTag, hf] at hx
    cases hx

theorem starts_link (p k : Port) (s : State) (u : WireUnit) :
    ((grantCredits p (s.setLink p .up)).send p u).link k = if k = p then .up else s.link k := by
  have link : ((grantCredits p (s.setLink p .up)).send p u).link k = (s.setLink p .up).link k := by cases p <;> rfl
  rw [link, link_setLink]

theorem starts_downSame (p : Port) (s : State) (u : WireUnit) :
    DownSame (s.setLink p .up) ((grantCredits p (s.setLink p .up)).send p u) := by
  cases p <;> exact ⟨rfl, fun _ => rfl, rfl, rfl, rfl, rfl⟩

theorem port_inj {a b : Source} (h : a.port = b.port) : a = b := by
  cases a <;> cases b <;> simp_all [Source.port]

theorem QueueMove.downEmpty {s t : State} (h : QueueMove s t) (hs : DownEmpty s) : DownEmpty t := by
  have target : ∀ g, TargetEmpty s g → TargetEmpty t g := fun g hg =>
    hg.same (h.egress_sublist g) fun i w hw => h.entries.waiting hw
  cases h with
  | relink p l _ running notUp down =>
    refine hs.relinked (link_setLink s p · l) running (fun k other _ empty => ?_) (fun src other _ empty => ?_)
      fun g other _ empty => target g (empty ?_)
    · have old : s.link (.host k) ≠ .up := if e : .host k = p then e ▸ notUp else other e
      exact ⟨(empty old).ingress, (empty old).mark, (empty old).tags⟩
    · have old : s.link src.port ≠ .up := if e : src.port = p then e ▸ notUp else other e
      exact ⟨(empty old).orders, (empty old).returns⟩
    · exact if e : .target g = p then e ▸ notUp else other e
  | starts p _ running answering =>
    have same := starts_downSame p s (.start (grantsAtStart p).1 (grantsAtStart p).2.1 (grantsAtStart p).2.2)
    have apart : ∀ k, (k = p → LinkState.up ≠ .up) → k ≠ p := fun k hk e => hk e rfl
    refine hs.relinked (starts_link p · s _) (by cases p <;> exact running) (fun k other here empty => ?_)
      (fun src other here empty => ?_) fun g other here empty => target g (empty (other (apart _ here)))
    · have old := empty (other (apart _ here))
      exact same.host ⟨old.ingress, old.mark, old.tags⟩
    · have old := empty (other (apart _ here))
      exact same.source ⟨old.orders, old.returns⟩
  | request h r _ up =>
    refine hs.stands (.same rfl rfl) (fun k hk empty => ⟨?_, empty.mark, empty.tags⟩) (fun src _ empty => ⟨empty.orders, empty.returns⟩)
      fun g _ => target g
    rw [ingress_setIngress, if_neg (by rintro rfl; exact hk up)]
    exact empty.ingress
  | order src e _ up =>
    refine hs.stands (.same rfl rfl) (fun k _ empty => ⟨empty.ingress, empty.mark, empty.tags⟩)
      (fun k hk empty => ⟨?_, empty.returns⟩) fun g _ => target g
    rw [orders_setOrders, if_neg (by rintro rfl; exact hk up)]
    exact empty.orders
  | requestBounced h =>
    exact hs.stands (.same rfl rfl) (fun k _ empty => ⟨empty.ingress, empty.mark, empty.tags⟩)
      (fun k _ empty => ⟨empty.orders, empty.returns⟩) fun g _ => target g
  | orderBounced src =>
    exact hs.stands (.same rfl rfl) (fun k _ empty => ⟨empty.ingress, empty.mark, empty.tags⟩)
      (fun k _ empty => ⟨empty.orders, empty.returns⟩) fun g _ => target g
  | mark h m _ head =>
    refine hs.stands (.same rfl rfl) (fun k _ empty => ⟨empty.ingress, ?_, empty.tags⟩)
      (fun k _ empty => ⟨empty.orders, empty.returns⟩) fun g _ => target g
    rw [mark_setMark]
    split
    · next e =>
      subst e
      rcases head with clear | head
      · exact clear
      · exact absurd empty.ingress head
    · exact empty.mark
  | head h _ head =>
    refine hs.stands (.same rfl rfl) (fun k hk empty => ⟨?_, empty.mark, empty.tags⟩)
      (fun k _ empty => ⟨empty.orders, empty.returns⟩) fun g _ => target g
    change (s.setIngress h (s.ingress h).tail).ingress k = []
    rw [ingress_setIngress, if_neg (by rintro rfl; exact head empty.ingress)]
    exact empty.ingress
  | refused h tag st i _ head free =>
    have up := hs.up_of_head head
    refine hs.stands (.same rfl rfl) (fun k hk empty => ⟨empty.ingress, empty.mark, fun j x hj => ?_⟩)
      (fun src hk empty => ⟨empty.orders, ?_⟩) fun g _ => target g
    · have entry : (answerRefused h tag st i s).entry j = _ := entry_setEntry s i j _
      rw [entry] at hj
      split at hj
      · cases hj
        rintro rfl
        exact hk up
      · exact empty.tags j x hj
    · have returns : (answerRefused h tag st i s).returns src = _ := returns_pushReturn (.host h) src _ _
      rw [returns, if_neg (by rintro rfl; exact hk up)]
      exact empty.returns
  | sent src pkt rest _ queue up =>
    refine hs.stands (.same (releaseSent_link ..).1 (by unfold sendHead; rw [releaseSent_ctl]; rfl))
      (fun k _ empty => empty.same (by unfold sendHead; rw [releaseSent_fwd]; rfl) (sendHead_tag src pkt s)) (fun k hk empty => ?_) fun g _ => target g
    have other : k ≠ src := by rintro rfl; exact hk up
    refine empty.same ?_ ?_
    · unfold sendHead
      rw [releaseSent_orders_other _ _ other]
      rfl
    · unfold State.returns sendHead
      rw [(releaseSent_link ..).2]
      exact (returns_setReturns s src k _).trans (if_neg other)
  | hostDown h l n _ running down =>
    refine hs.relinked (p := .host h) (l := l) (endHostSession_link h l n s) (by rw [endHostSession_ctl]; exact running)
      (fun k other _ empty => ⟨?_, ?_, fun i x hx => ?_⟩) (fun src other _ empty => ⟨?_, ?_⟩)
      fun g other _ empty => target g (empty (other (by simp)))
    · rw [endHostSession_ingress]
      split
      · rfl
      · next e => exact (empty (other (by simpa using e))).ingress
    · rw [endHostSession_mark]
      split
      · rfl
      · next e => exact (empty (other (by simpa using e))).mark
    · rw [endHostSession_entry] at hx
      by_cases e : k = h
      · exact e ▸ orphanedEntry_tag_ne hx
      · rcases orphanedEntry_tag h (s.entry i) with same | none
        · exact (empty (other (by simpa using e))).tags i x (same ▸ hx)
        · rw [none] at hx; cases hx
    · rw [endHostSession_orders]
      split
      · exact isTaken_silent_of_silenced
      · next e => exact (empty (other fun e' => e (port_inj e'))).orders
    · rw [endHostSession_returns]
      split
      · rfl
      · next e => exact (empty (other fun e' => e (port_inj e'))).returns
  | mgmtDown l n _ running down =>
    have table := endMgmtSession_table l n s
    refine hs.relinked (p := .mgmt) (l := l) (endMgmtSession_link l n s) (by rw [endMgmtSession_ctl]; exact running)
      (fun k other _ empty => (empty (other (by simp))).same (endMgmtSession_fwd l n s)
        fun i => .inl (by unfold State.entry; rw [table]))
      (fun src other _ empty => ⟨?_, ?_⟩) fun g other _ empty => target g (empty (other (by simp)))
    · rw [endMgmtSession_orders]
      split
      · exact isTaken_silent_of_silenced
      · next e => exact (empty (other fun e' => e (port_inj (b := .mgmt) e'))).orders
    · rw [endMgmtSession_returns]
      split
      · rfl
      · next e => exact (empty (other fun e' => e (port_inj (b := .mgmt) e'))).returns
  | targetDown g l _ running down empty ended =>
    refine hs.relinked (link_setLink s (.target g) · l) running (fun k other _ empty => ?_) (fun src other _ empty => ?_)
      fun k other _ old => ?_
    · have old := empty (other (by simp))
      exact ⟨old.ingress, old.mark, old.tags⟩
    · have old := empty (other (by cases src <;> simp [Source.port]))
      exact ⟨old.orders, old.returns⟩
    · by_cases e : k = g
      · subst e
        exact ⟨empty, ended⟩
      · have old := old (other (by simpa using e))
        exact ⟨old.egress, old.waiting⟩
  | answered src e st rs _ oldest =>
    have up := hs.up_of_oldest oldest
    refine hs.stands (.same rfl rfl) (fun k _ empty => ⟨empty.ingress, empty.mark, empty.tags⟩) (fun k hk empty => ?_)
      fun g _ => target g
    have other : k ≠ src := by rintro rfl; exact hk up
    refine empty.same ((orders_setOrders s src k _).trans (if_neg other)) ?_
    have returns : (answerOrder src e st rs s).returns k = _ := returns_pushReturn src k _ _
    rw [returns, if_neg other]
    rfl
  | cleared g =>
    exact hs.stands (.same rfl rfl) (fun k _ empty => ⟨empty.ingress, empty.mark, empty.tags⟩)
      (fun k _ empty => ⟨empty.orders, empty.returns⟩) fun g _ => target g
  | flushed h =>
    have same : DownSame ((s.setIngress h []).setMark h .clear) (flushIngress h s) := by
      unfold flushIngress returnRequestCredits
      split <;> exact ⟨rfl, fun _ => rfl, rfl, rfl, rfl, rfl⟩
    have phase : (flushIngress h s).ctl.phase = s.ctl.phase := by
      unfold flushIngress returnRequestCredits
      split <;> rfl
    refine hs.stands (.same same.link phase) (fun k _ empty => same.host ⟨?_, ?_, empty.tags⟩)
      (fun k _ empty => same.source ⟨empty.orders, empty.returns⟩) fun g _ => target g
    · change (s.setIngress h []).ingress k = []
      rw [ingress_setIngress]
      split
      · rfl
      · exact empty.ingress
    · rw [mark_setMark]
      split
      · rfl
      · exact empty.mark

theorem Ebb.link {s t : State} (h : Ebb s t) : t.ports.link = s.ports.link := by
  cases h with
  | left i w st d => rw [(ends_leaveWaiting i st d s).ports]
  | lost picks g => rw [(ends_removePosts picks g s).ports]
  | delivered g pkt rest =>
    unfold deliverHead
    rw [(lowerCountOf_spec pkt _).ends.ports]
    rfl

theorem lowerCount_returns (r : Route) (s : State) (k : Source) : (lowerCount r s).returns k = s.returns k := by cases r <;> rfl

/-- An entry that leaves WAITING has its REPLY queued, if it is not an orphan (R61). -/
theorem leaveWaiting_returns {s : State} {i : Fin Config.replyEntries} {w : Waiting} (h : (s.entry i).state = .waiting w)
    (st : Status) (d : List Byte) (k : Source) :
    (leaveWaiting i st d s).returns k =
      if w.orphan = false ∧ k = .host w.host then s.returns k ++ [.reply i w.tag st d] else s.returns k := by
  have same : (lowerCount w.route (removeFetch w.target i s)).returns k = s.returns k := lowerCount_returns ..
  rw [leaveWaiting_waiting h]
  cases w.orphan with
  | true =>
    rw [if_pos rfl, if_neg (by simp)]
    exact same
  | false =>
    rw [if_neg Bool.false_ne_true]
    unfold answerEntry
    rw [returns_pushReturn]
    by_cases e : k = .host w.host
    · rw [if_pos e, if_pos ⟨rfl, e⟩]
      exact congrArg (· ++ _) same
    · rw [if_neg e, if_neg fun both => e both.2]
      exact same

theorem removePosts_returns (picks : EgressPacket → Bool) (g : TargetId) (s : State) (k : Source) :
    (removePosts picks g s).returns k = s.returns k :=
  foldl_rel (R := fun u v : State => v.returns k = u.returns k) (fun _ => rfl) (fun _ _ _ a b => b.trans a)
    (fun u pkt => lowerCountOf pkt u) (fun u pkt => by rw [(lowerCountOf_spec pkt u).rest]; rfl) _ _

theorem deliverHead_returns (g : TargetId) (pkt : EgressPacket) (s : State) (k : Source) :
    (deliverHead g pkt s).returns k = s.returns k := by
  unfold deliverHead
  rw [(lowerCountOf_spec pkt _).rest]
  rfl

/-- Falling counts add to a return queue the REPLY of an entry of that host alone. -/
theorem Ebb.returns {s t : State} (h : Ebb s t) (k : Source) :
    t.returns k = s.returns k ∨
      ∃ i w st d, (s.entry i).state = .waiting w ∧ w.orphan = false ∧ t = leaveWaiting i st d s ∧ k = .host w.host ∧
        t.returns k = s.returns k ++ [.reply i w.tag st d] := by
  cases h with
  | left i w st d _ waiting =>
    by_cases both : w.orphan = false ∧ k = .host w.host
    · exact .inr ⟨i, w, st, d, waiting, both.1, rfl, both.2, by rw [leaveWaiting_returns waiting, if_pos both]⟩
    · exact .inl (by rw [leaveWaiting_returns waiting, if_neg both])
  | lost picks g => exact .inl (removePosts_returns picks g s k)
  | delivered g pkt rest => exact .inl (deliverHead_returns g pkt s k)

theorem Ebb.tag {s t : State} (h : Ebb s t) (i : Fin Config.replyEntries) :
    currentTag (t.entry i) = currentTag (s.entry i) := by
  rcases h.entries with stand | ⟨k, w, st, d, hw, rfl⟩
  · rw [stand]
  · rw [leaveWaiting_entry hw]
    split
    · next e =>
      rw [e]
      cases ho : w.orphan <;> simp [currentTag, hw, ho]
    · rfl

theorem Ebb.waiting {s t : State} (h : Ebb s t) {i : Fin Config.replyEntries} {w : Waiting}
    (hw : (t.entry i).state = .waiting w) : (s.entry i).state = .waiting w := by
  rcases h.entries with stand | ⟨k, w', st, d, hk, rfl⟩
  · exact stand i ▸ hw
  · rw [leaveWaiting_entry hk] at hw
    split at hw
    · split at hw <;> cases hw
    · exact hw

theorem Ebb.downEmpty {s t : State} (h : Ebb s t) (hs : DownEmpty s) : DownEmpty t := by
  refine hs.stands (.same h.link (by rw [h.ctl])) (fun k _ empty => empty.same h.fwd fun i => .inl (h.tag i))
    (fun src hk empty => ⟨?_, ?_⟩)
    fun g _ empty => empty.same (h.egress_sublist g) fun i w hw => ⟨w, h.waiting hw, rfl⟩
  · unfold State.orders
    rw [h.eng]
    exact empty.orders
  · rcases h.returns src with same | ⟨i, w, st, d, hw, loud, _, rfl, _⟩
    · rw [same]
      exact empty.returns
    · exact absurd (hs.up_of_tag (i := i) (x := (w.host, w.tag)) (by simp [currentTag, hw, loud])) hk

theorem targetOpen_up {g : TargetId} {s : State} (h : targetOpen g s = true) : s.link (.target g) = .up := by
  unfold targetOpen at h
  exact (isUp_iff _ s).1 (Bool.and_eq_true_iff.1 h).1

theorem raiseCount_returns (r : Route) (s : State) (k : Source) : (raiseCount r s).returns k = s.returns k := by cases r <;> rfl

theorem Flow.returns {s t : State} (h : Flow s t) (k : Source) : t.returns k = s.returns k := by
  cases h with
  | fetched h tag n hop i => exact raiseCount_returns ..
  | posted h d hop g => exact raiseCount_returns ..

theorem Flow.downEmpty {s t : State} (h : Flow s t) (hs : DownEmpty s) : DownEmpty t := by
  have source : ∀ src, SourceEmpty s src → SourceEmpty t src := fun src empty =>
    empty.same (by unfold State.orders; rw [h.traffic.eng]) (h.returns src)
  have links : LinksStand s t := .same h.traffic.link (by rw [h.traffic.ctl])
  have fwd := h.fwd
  cases h with
  | fetched h tag n hop i _ head free fresh opens =>
    have entry := forwardFetch_entry h tag n hop i (s := s)
    refine hs.stands links (fun k hk empty => ⟨?_, ?_, fun j x hj => ?_⟩) (fun src _ => source src)
      fun g hk empty => ⟨?_, fun j w hj => ?_⟩
    · unfold State.ingress; rw [fwd]; exact empty.ingress
    · unfold State.mark; rw [fwd]; exact empty.mark
    · rw [entry] at hj
      split at hj
      · cases hj
        rintro rfl
        exact hk (hs.up_of_head head)
      · exact empty.tags j x hj
    · rw [forwardFetch_egress, if_neg (by rintro rfl; exact hk (targetOpen_up opens))]
      exact empty.egress
    · rw [entry] at hj
      split at hj
      · cases hj
        rintro rfl
        exact hk (targetOpen_up opens)
      · exact empty.waiting j w hj
  | posted h d hop g _ opens =>
    have entry := placePost_entry h d hop g s
    refine hs.stands links (fun k _ empty => empty.same fwd fun i => .inl (by rw [entry])) (fun src _ => source src)
      fun k hk empty => ⟨?_, fun j w hj => empty.waiting j w (by rwa [entry] at hj)⟩
    rw [placePost_egress, if_neg (by rintro rfl; exact hk (targetOpen_up opens))]
    exact empty.egress

/-! ### Orders that end and start -/

/-- What closing an order does to a source's queues: the TAKEN entry is removed if it is silent, or else ANSWERED with its reply
queued; without one nothing happens (R79, R122). -/
inductive Closed (src : Source) (i : Fin Config.slots) (st : Status) (s t : State) : Prop
  | none (same : ∀ k, t.orders k = s.orders k ∧ t.returns k = s.returns k)
  | removed (e : OrderEntry) (found : (s.orders src).find? (isTakenFor i) = some e) (silent : e.silent = true)
      (orders : ∀ k, t.orders k = if k = src then (s.orders src).eraseP (isTakenFor i) else s.orders k)
      (returns : ∀ k, t.returns k = s.returns k)
  | answered (e : OrderEntry) (found : (s.orders src).find? (isTakenFor i) = some e) (loud : e.silent = false)
      (orders : ∀ k, t.orders k =
        if k = src then updateFirst (isTakenFor i) (fun e => { e with state := .answered }) (s.orders src) else s.orders k)
      (returns : ∀ k, t.returns k =
        if k = src then s.returns k ++ [.orderReply e.sequence e.code st []] else s.returns k)

theorem closed_closeOrder (src : Source) (i : Fin Config.slots) (st : Status) (s : State) :
    Closed src i st s (closeOrder src i st s) := by
  unfold closeOrder
  split
  · next e he =>
    split
    · next silent => exact .removed e he silent (orders_setOrders s src · _) fun _ => rfl
    · next loud =>
      exact .answered e he (by simpa using loud) (orders_setOrders s src · _) (returns_pushReturn src · _ _)
  · exact .none fun _ => ⟨rfl, rfl⟩

/-- A source whose orders are closed loudly is UP. -/
theorem DownEmpty.closed {s t : State} {src : Source} {i : Fin Config.slots} {st : Status} (hs : DownEmpty s)
    (h : Closed src i st s t) {k : Source} (hk : s.link k.port ≠ .up) : SourceEmpty t k := by
  have empty := hs.source k hk
  cases h with
  | none same => exact empty.same (same k).1 (same k).2
  | removed e found silent orders returns =>
    refine ⟨?_, (returns k).trans empty.returns⟩
    rw [orders]
    split
    · next ek =>
      subst ek
      exact fun e he => empty.orders e (List.mem_of_mem_eraseP he)
    · exact empty.orders
  | answered e found loud orders returns =>
    have other : k ≠ src := by
      rintro rfl
      have silent := (empty.orders e (List.mem_of_find?_eq_some found)).2
      rw [loud] at silent
      cases silent
    exact empty.same ((orders k).trans (if_neg other)) ((returns k).trans (if_neg other))

/-- What a decision does to orders and return queues. -/
inductive OrdersMove (s t : State) : Prop
  | stand (orders : t.eng.orders = s.eng.orders) (returns : t.ports.returns = s.ports.returns)
  | taken (src : Source) (i : Fin Config.slots) (e : OrderEntry) (oldest : oldestQueued s src = some e)
      (orders : ∀ k, t.orders k =
        if k = src then updateFirst isQueued (fun e => { e with state := .taken i }) (s.orders src) else s.orders k)
      (returns : t.ports.returns = s.ports.returns)
  | closed (src : Source) (i : Fin Config.slots) (st : Status) (h : Closed src i st s t)

theorem Closed.of_left {src : Source} {i : Fin Config.slots} {st : Status} {s u t : State} (h : Closed src i st u t)
    (orders : u.eng.orders = s.eng.orders) (returns : u.ports.returns = s.ports.returns) : Closed src i st s t := by
  have o : ∀ k, u.orders k = s.orders k := fun k => by unfold State.orders; rw [orders]
  have r : ∀ k, u.returns k = s.returns k := fun k => by unfold State.returns; rw [returns]
  cases h with
  | none same => exact .none fun k => ⟨(same k).1.trans (o k), (same k).2.trans (r k)⟩
  | removed e found silent orders returns =>
    exact .removed e (o src ▸ found) silent (fun k => by rw [orders, o, o]) fun k => (returns k).trans (r k)
  | answered e found loud orders returns =>
    exact .answered e (o src ▸ found) loud (fun k => by rw [orders, o, o]) fun k => by rw [returns, r]

theorem closed_completeJob (j : DrainJob) (s : State) : Closed j.source j.handle.slot .done s (completeJob j s) := by
  refine (closed_closeOrder j.source j.handle.slot .done _).of_left ?_ ?_
  · rw [← carryOutPurpose_eng j.handle.slot s]
    rfl
  · rw [← carryOutPurpose_ports j.handle.slot s]
    rfl

theorem closed_abandonJob (j : DrainJob) (s : State) : Closed j.source j.handle.slot .drainExpired s (abandonJob j s) := by
  have restored := slotOnly_restoreWindow j.handle.slot s
  rw [abandonJob_eq]
  refine (closed_closeOrder j.source j.handle.slot .drainExpired _).of_left ?_ ?_
  · change (restoreWindow j.handle.slot s).eng.orders = _
    rw [restored.rest]
  · change (restoreWindow j.handle.slot s).ports.returns = _
    rw [restored.ports]

theorem Decision.orders {s t : State} (h : Decision s t) : OrdersMove s t := by
  cases h with
  | changed i w c =>
    exact .stand (by rw [applyChange_eng, reserve_eng])
      (congrArg Ports.returns ((slotOnly_reserve i c s).trans (slotOnly_applyChange i c w _)).ports)
  | drains i w c m src e _ _ window live traffic room fits oldest =>
    have reserved := (slotOnly_reserve i c s).ports
    refine .taken src i e oldest (fun k => ?_) (congrArg Ports.returns reserved)
    have orders : (reserve c s).orders = s.orders := by funext k; unfold State.orders; rw [reserve_eng]
    rw [← orders]
    exact orders_setOrders _ src k _
  | retires i w m src e _ _ window live traffic room oldest => exact .taken src i e oldest (orders_setOrders _ src · _) rfl
  | freed i w => exact .stand (by rw [freeSlot_eng]) (congrArg Ports.returns (slotOnly_freeSlot i s).ports)
  | abandoned j => exact .closed _ _ _ (closed_abandonJob j s)
  | _ => exact .stand rfl rfl

theorem Decision.downEmpty {s t : State} (h : Decision s t) (hs : DownEmpty s) : DownEmpty t := by
  have same := h.elsewhere
  refine hs.stands ⟨same.link, by rw [h.ctl]⟩ (fun k _ empty => empty.same same.fwd fun i => .inl (by rw [same.entry]))
    (fun k hk empty => ?_) fun g _ empty => empty.same (by rw [same.egress]) fun i w hw => ⟨w, same.entry i ▸ hw, rfl⟩
  cases h.orders with
  | stand orders returns =>
    exact empty.same (by unfold State.orders; rw [orders]) (by unfold State.returns; rw [returns])
  | taken src i e oldest orders returns =>
    have other : k ≠ src := by rintro rfl; exact hk (hs.up_of_oldest oldest)
    exact empty.same ((orders k).trans (if_neg other)) (by unfold State.returns; rw [returns])
  | closed src i st h => exact hs.closed h hk

theorem DownEmpty.completeJob {s : State} (hs : DownEmpty s) (j : DrainJob) : DownEmpty (completeJob j s) := by
  have ended := drainsEnd_completeJob j s
  have same := ended.elsewhere
  exact hs.stands ⟨same.link, by rw [ended.ctl]⟩ (fun k _ empty => empty.same same.fwd fun i => .inl (by rw [same.entry]))
    (fun k hk _ => hs.closed (closed_completeJob j s) hk)
    fun g _ empty => empty.same (by rw [same.egress]) fun i w hw => ⟨w, same.entry i ▸ hw, rfl⟩

theorem movesKeep_downEmpty : MovesKeep DownEmpty where
  quiet h hs := h.downEmpty hs
  queue h hs := h.downEmpty hs
  flow h hs := h.downEmpty hs
  decision h hs := h.downEmpty hs
  drains h hs :=
    have before := keeps_ebbs (P := DownEmpty) Quiet.downEmpty QueueMove.downEmpty Ebb.downEmpty h hs
    completeDrains_keeps (P := DownEmpty) (fun j _ _ hu => hu.completeJob j) _ before

/-! ### Notices and ports that are not UP -/

/-- A port that is not UP gets no packet at an event's end, unless the event prompts it. -/
theorem notify_returns_down {before s : State} {prompt : Option Port} {src : Source} (down : s.link src.port ≠ .up)
    (unprompted : prompt ≠ some src.port) : (notify before prompt s).returns src = s.returns src := by
  cases src with
  | mgmt =>
    rw [(notify_mgmt before prompt s).1, decide_eq_false (show prompt ≠ some .mgmt from unprompted)]
    cases isOccasion before s with
    | false => rw [notifyMgmt_quiet rfl]
    | true => rw [notifyMgmt_owed rfl fun room => down room.1]; rfl
  | host h =>
    by_cases hs : s.events.setting.host = some h
    · rw [(notify_host hs before prompt).1, decide_eq_false (show prompt ≠ some (.host h) from unprompted)]
      cases isOccasion before s with
      | false => rw [notifyHost_quiet rfl (.inl rfl)]
      | true =>
        cases barred : s.ports.barredHost.get h with
        | true => rw [notifyHost_quiet rfl (.inr barred)]
        | false => rw [notifyHost_owed rfl barred fun room => down room.1]; rfl
    · exact notify_otherHost hs before prompt

theorem DownEmpty.notify {s : State} (hs : DownEmpty s) (before : State) {prompt : Option Port}
    (up : ∀ p, prompt = some p → s.link p = .up) : DownEmpty (notify before prompt s) := by
  have same := elsewhere_notify before prompt s
  refine hs.stands ⟨same.link, by rw [notify_ctl]⟩ (fun k _ empty => empty.same same.fwd fun i => .inl (by rw [same.entry]))
    (fun k hk empty => empty.same (notify_orders ..) (notify_returns_down hk fun e => hk (up _ e)))
    fun g _ empty => empty.same (by rw [same.egress]) fun i w hw => ⟨w, same.entry i ▸ hw, rfl⟩

theorem downEmpty_powerOnValues {ph : Phase} (cause : ResetCause) (s : State) : DownEmpty (powerOnValues ph cause s) := by
  have values := powerOnValues_hold ph cause s
  refine ⟨fun h _ => ⟨(values.hosts h).1, (values.hosts h).2.1, fun i x hx => ?_⟩,
    fun src _ => ⟨fun e he => ?_, (values.sources src).2.1⟩, fun g _ => ⟨(values.targets g).1, fun i w hw => ?_⟩,
    fun _ p => (values.links p).1⟩
  · rw [currentTag, powerOnValues_free] at hx
    cases hx
  · rw [(values.sources src).1] at he
    cases he
  · rw [powerOnValues_free] at hw
    cases hw

theorem startSent_link (p k : Port) (s : State) : (startSent p s).link k = if k = p then .up else s.link k :=
  starts_link p k s (.start (grantsAtStart p).1 (grantsAtStart p).2.1 (grantsAtStart p).2.2)

theorem promptOf_eq_some {src : Source} {pkt : ReturnPacket} {p : Port} (h : promptOf src pkt = some p) : p = src.port := by
  unfold promptOf at h
  split at h
  · exact (Option.some.inj h).symm
  · cases h

theorem sendHead_link (src : Source) (pkt : ReturnPacket) (s : State) : (sendHead src pkt s).ports.link = s.ports.link :=
  (releaseSent_link ..).1

theorem offerFreed_link (before s : State) (p : Port) : (offerFreed before s).link p = s.link p := by
  unfold State.link
  rw [(moves_offerFreed before s).link]

/-- Settles O15: what enters a queue of a port finds it UP, and a session's end empties the port. -/
theorem downPortsEmptyKept : Obligations.DownPortsEmptyKept := by
  unfold Obligations.DownPortsEmptyKept
  intro s t hs h
  rw [downPortsEmpty_iff] at hs ⊢
  refine step_keeps movesKeep_downEmpty (fun before u hu => hu.notify before (by simp))
    (fun u p running answering hu => ?_) (fun u src pkt rest queue up hu => ?_)
    (fun ph cause u _ => downEmpty_powerOnValues cause u) (fun u rest hu => ?_) hs h
  · refine DownEmpty.notify (movesKeep_downEmpty.moves (moves_of_startSent running answering) hu) u fun k hk => ?_
    cases hk
    rw [startSent_link, if_pos rfl]
  · refine DownEmpty.notify (movesKeep_downEmpty.moves (moves_of_sendHead queue up) hu) u fun k hk => ?_
    rw [promptOf_eq_some hk, offerFreed_link]
    unfold State.link
    rw [sendHead_link]
    exact up
  · have same : DownSame u { u with pending := rest } := ⟨rfl, fun _ => rfl, rfl, rfl, rfl, rfl⟩
    exact same.downEmpty rfl hu

end Sys2Proof.Machine
end

section
/-! PROOFS. Unused grants and free places. -/

namespace Sys2Proof.Machine

/-! ### Grants, port by port (R150, R167) -/

/-- A host's unused REQUEST grant and its ingress packets are its places together, while it is UP; else the grant is zero. -/
def RequestBalanced (s : State) (h : HostId) : Prop :=
  if s.link (.host h) = .up then s.ports.grantedRequest.get h + (s.ingress h).length = Config.ingressPlaces
  else s.ports.grantedRequest.get h = 0

/-- A source's unused ORDER grant and its orders that are not silent are its places together, while it is UP; else the grant is
zero. -/
def OrderBalanced (s : State) (src : Source) : Prop :=
  if s.link src.port = .up then s.ports.grantedOrder.get src + placesUsed (s.orders src) = Config.orderPlaces src
  else s.ports.grantedOrder.get src = 0

/-- Every grant is balanced. -/
structure Balanced (s : State) : Prop where
  request : ∀ h, RequestBalanced s h
  order : ∀ src, OrderBalanced s src

theorem creditsMatch_iff (s : State) : CreditsMatch s ↔ Balanced s := by
  constructor
  · intro h
    refine ⟨fun k => ?_, fun src => ?_⟩
    · unfold RequestBalanced
      split
      · next up => exact h.request k up
      · next down => exact h.noRequest k down
    · unfold OrderBalanced
      split
      · next up => exact h.order src up
      · next down => exact h.noOrder src down
  · intro h
    refine ⟨fun k up => ?_, fun src up => ?_, fun k down => ?_, fun src down => ?_⟩
    · exact (if_pos up).mp (h.request k)
    · exact (if_pos up).mp (h.order src)
    · exact (if_neg down).mp (h.request k)
    · exact (if_neg down).mp (h.order src)

theorem RequestBalanced.of_up {s : State} {h : HostId} (up : s.link (.host h) = .up)
    (total : s.ports.grantedRequest.get h + (s.ingress h).length = Config.ingressPlaces) : RequestBalanced s h :=
  (if_pos up).mpr total

theorem RequestBalanced.total {s : State} {h : HostId} (hs : RequestBalanced s h) (up : s.link (.host h) = .up) :
    s.ports.grantedRequest.get h + (s.ingress h).length = Config.ingressPlaces := (if_pos up).mp hs

theorem OrderBalanced.of_up {s : State} {src : Source} (up : s.link src.port = .up)
    (total : s.ports.grantedOrder.get src + placesUsed (s.orders src) = Config.orderPlaces src) : OrderBalanced s src :=
  (if_pos up).mpr total

theorem OrderBalanced.total {s : State} {src : Source} (hs : OrderBalanced s src) (up : s.link src.port = .up) :
    s.ports.grantedOrder.get src + placesUsed (s.orders src) = Config.orderPlaces src := (if_pos up).mp hs

/-- Grant and queue of a host differ in nothing that counts. -/
theorem RequestBalanced.same {s t : State} {h : HostId} (hs : RequestBalanced s h)
    (link : t.link (.host h) = .up ↔ s.link (.host h) = .up)
    (grant : t.ports.grantedRequest.get h = s.ports.grantedRequest.get h)
    (queue : (t.ingress h).length = (s.ingress h).length) : RequestBalanced t h := by
  unfold RequestBalanced at hs ⊢
  rw [grant, queue]
  split
  · next up => exact (if_pos (link.1 up)).mp hs
  · next down => exact (if_neg (fun up => down (link.2 up))).mp hs

theorem OrderBalanced.same {s t : State} {src : Source} (hs : OrderBalanced s src)
    (link : t.link src.port = .up ↔ s.link src.port = .up)
    (grant : t.ports.grantedOrder.get src = s.ports.grantedOrder.get src)
    (queue : placesUsed (t.orders src) = placesUsed (s.orders src)) : OrderBalanced t src := by
  unfold OrderBalanced at hs ⊢
  rw [grant, queue]
  split
  · next up => exact (if_pos (link.1 up)).mp hs
  · next down => exact (if_neg (fun up => down (link.2 up))).mp hs

theorem RequestBalanced.keep {s t : State} {h : HostId} (hs : RequestBalanced s h) (link : t.ports.link = s.ports.link)
    (grant : t.ports.grantedRequest = s.ports.grantedRequest) (fwd : t.fwd = s.fwd) : RequestBalanced t h :=
  hs.same (by unfold State.link; rw [link]) (by rw [grant]) (by unfold State.ingress; rw [fwd])

theorem OrderBalanced.keep {s t : State} {src : Source} (hs : OrderBalanced s src) (link : t.ports.link = s.ports.link)
    (grant : t.ports.grantedOrder = s.ports.grantedOrder) (orders : placesUsed (t.orders src) = placesUsed (s.orders src)) :
    OrderBalanced t src :=
  hs.same (by unfold State.link; rw [link]) (by rw [grant]) orders

theorem Balanced.keep {s t : State} (hs : Balanced s) (link : t.ports.link = s.ports.link)
    (request : t.ports.grantedRequest = s.ports.grantedRequest) (order : t.ports.grantedOrder = s.ports.grantedOrder)
    (fwd : t.fwd = s.fwd) (orders : ∀ src, placesUsed (t.orders src) = placesUsed (s.orders src)) : Balanced t :=
  ⟨fun h => (hs.request h).keep link request fwd, fun src => (hs.order src).keep link order (orders src)⟩

theorem placesUsed_of_orders {s t : State} (h : t.eng.orders = s.eng.orders) (src : Source) :
    placesUsed (t.orders src) = placesUsed (s.orders src) := by
  unfold State.orders
  rw [h]

theorem placesUsed_of_allSilent {q : List OrderEntry} (h : ∀ e ∈ q, e.silent = true) : placesUsed q = 0 :=
  List.countP_eq_zero.2 fun e he => by simp [h e he]

/-- The removal of an entry that is not silent frees a place. -/
theorem placesUsed_eraseP {p : OrderEntry → Bool} {q : List OrderEntry} (some : q.any p = true)
    (loud : ∀ e, p e = true → e.silent = false) : placesUsed (q.eraseP p) + 1 = placesUsed q := by
  obtain ⟨e, he, hp⟩ := List.any_eq_true.1 some
  obtain ⟨e', older, newer, _, hp', split, erased⟩ := List.exists_of_eraseP he hp
  unfold placesUsed
  rw [erased, split, List.countP_append, List.countP_append, List.countP_cons, if_pos (by rw [loud e' hp']; rfl)]
  omega

/-- The removal of a silent entry frees none. -/
theorem placesUsed_eraseP_silent {p : OrderEntry → Bool} {q : List OrderEntry} {e : OrderEntry} (found : q.find? p = some e)
    (silent : e.silent = true) : placesUsed (q.eraseP p) = placesUsed q := by
  obtain ⟨hp, older, newer, hq, ho⟩ := List.find?_eq_some_iff_append.1 found
  have erased : q.eraseP p = older ++ newer := by
    rw [hq, List.eraseP_append_right _ fun y hy => by simpa using ho y hy, List.eraseP_cons_of_pos hp]
  unfold placesUsed
  rw [erased, hq, List.countP_append, List.countP_append, List.countP_cons, if_neg (by rw [silent]; decide)]
  rfl

theorem Closed.places {src : Source} {i : Fin Config.slots} {st : Status} {s t : State} (h : Closed src i st s t) (k : Source) :
    placesUsed (t.orders k) = placesUsed (s.orders k) := by
  cases h with
  | none same => rw [(same k).1]
  | removed e found silent orders returns =>
    rw [orders]
    split
    · next ek => rw [ek, placesUsed_eraseP_silent found silent]
    · rfl
  | answered e found loud orders returns =>
    rw [orders]
    split
    · next ek =>
      rw [ek]
      exact placesUsed_updateFirst (fun _ => by rfl) _
    · rfl

theorem OrdersMove.places {s t : State} (h : OrdersMove s t) (k : Source) :
    placesUsed (t.orders k) = placesUsed (s.orders k) := by
  cases h with
  | stand orders => exact placesUsed_of_orders orders k
  | taken src i e oldest orders =>
    rw [orders]
    split
    · next ek =>
      rw [ek]
      exact placesUsed_updateFirst (fun _ => by rfl) _
    · rfl
  | closed src i st h => exact h.places k

theorem grantedRequest_set (s : State) (h k : HostId) (n : Nat) :
    (s.setGrantedRequest h n).ports.grantedRequest.get k = if k = h then n else s.ports.grantedRequest.get k :=
  PerHost.get_set _ _ _ _

theorem grantedOrder_set (s : State) (src k : Source) (n : Nat) :
    (s.setGrantedOrder src n).ports.grantedOrder.get k = if k = src then n else s.ports.grantedOrder.get k :=
  PerSource.get_set _ _ _ _

theorem returnRequestCredits_grant (h k : HostId) (n : Nat) (s : State) :
    (returnRequestCredits h n s).ports.grantedRequest.get k =
      if k = h then s.ports.grantedRequest.get h + n else s.ports.grantedRequest.get k := by
  unfold returnRequestCredits
  split
  · next zero =>
    rw [zero]
    split
    · next e => rw [e]; rfl
    · rfl
  · exact grantedRequest_set ..

theorem returnOrderCredit_grant (src k : Source) (s : State) :
    (returnOrderCredit src s).ports.grantedOrder.get k =
      if k = src then s.ports.grantedOrder.get src + 1 else s.ports.grantedOrder.get k := grantedOrder_set ..

/-- Everything of a state that grants depend on, but the grants of REQUEST credits and ingress queues. -/
theorem returnRequestCredits_rest (h : HostId) (n : Nat) (s : State) :
    (returnRequestCredits h n s).ports.link = s.ports.link ∧
      (returnRequestCredits h n s).ports.grantedOrder = s.ports.grantedOrder ∧ (returnRequestCredits h n s).fwd = s.fwd ∧
      (returnRequestCredits h n s).eng = s.eng := by
  unfold returnRequestCredits
  split <;> exact ⟨rfl, rfl, rfl, rfl⟩

theorem releaseSent_grantedRequest (src : Source) (pkt : ReturnPacket) (s : State) :
    (releaseSent src pkt s).ports.grantedRequest = s.ports.grantedRequest := by
  unfold releaseSent
  split
  · split <;> rfl
  · split <;> rfl
  · rfl
  · rfl

theorem isAnsweredAs_loud {q : Byte} {e : OrderEntry} (h : isAnsweredAs q e = true) : e.silent = false := by
  simp only [isAnsweredAs, Bool.and_eq_true, Bool.not_eq_true'] at h
  exact h.1.2

/-- An ORDER_REPLY that leaves frees its order's place, and one ORDER credit goes back (R75). -/
theorem releaseSent_order (src : Source) (pkt : ReturnPacket) (s : State) :
    (∀ k, k ≠ src → (releaseSent src pkt s).ports.grantedOrder.get k = s.ports.grantedOrder.get k) ∧
      (releaseSent src pkt s).ports.grantedOrder.get src + placesUsed ((releaseSent src pkt s).orders src) =
        s.ports.grantedOrder.get src + placesUsed (s.orders src) := by
  unfold releaseSent
  split
  · split <;> exact ⟨fun _ _ => rfl, rfl⟩
  · next q _ _ _ =>
    split
    · next some =>
      refine ⟨fun k hk => (returnOrderCredit_grant src k _).trans (if_neg hk), ?_⟩
      have orders : (returnOrderCredit src (s.setOrders src ((s.orders src).eraseP (isAnsweredAs q)))).orders src =
          (s.orders src).eraseP (isAnsweredAs q) := (orders_setOrders s src src _).trans (if_pos rfl)
      have freed := placesUsed_eraseP some fun e he => isAnsweredAs_loud he
      rw [orders, returnOrderCredit_grant, if_pos rfl]
      change s.ports.grantedOrder.get src + 1 + _ = _
      omega
    · exact ⟨fun _ _ => rfl, rfl⟩
  · exact ⟨fun _ _ => rfl, rfl⟩
  · exact ⟨fun _ _ => rfl, rfl⟩

theorem up_iff_of_ne {s t : State} {p k : Port} {l : LinkState} (link : ∀ k, t.link k = if k = p then l else s.link k)
    (hk : k ≠ p) : t.link k = .up ↔ s.link k = .up := by rw [link, if_neg hk]

theorem QueueMove.balanced {s t : State} (h : QueueMove s t) (empty : DownEmpty s) (hs : Balanced s) : Balanced t := by
  cases h with
  | relink p l _ running notUp down =>
    have link : ∀ k, (s.setLink p l).link k = .up ↔ s.link k = .up := fun k => by
      rw [link_setLink]
      split
      · next e => rw [e]; exact ⟨fun h => absurd h down, fun h => absurd h notUp⟩
      · rfl
    exact ⟨fun k => (hs.request k).same (link _) rfl rfl, fun src => (hs.order src).same (link _) rfl rfl⟩
  | starts p _ running answering =>
    have down : s.link p ≠ .up := by rw [answering]; decide
    have link := fun k => starts_link p k s (.start (grantsAtStart p).1 (grantsAtStart p).2.1 (grantsAtStart p).2.2)
    have noOrders : ∀ src : Source, src.port = p → placesUsed (s.orders src) = 0 := fun src e =>
      placesUsed_of_allSilent fun x hx => ((empty.source src (e ▸ down)).orders x hx).2
    cases p with
    | mgmt =>
      refine ⟨fun k => (hs.request k).same (up_iff_of_ne link (by simp)) rfl rfl, fun src => ?_⟩
      by_cases e : src = .mgmt
      · subst e
        refine .of_up (by rw [link]; rfl) ?_
        have grant : ((s.setLink .mgmt .up).setGrantedOrder .mgmt (Config.orderPlaces .mgmt)).ports.grantedOrder.get .mgmt =
          Config.orderPlaces .mgmt := (grantedOrder_set ..).trans (if_pos rfl)
        exact (congrArg₂ (· + ·) grant (noOrders .mgmt rfl)).trans (Nat.add_zero _)
      · refine (hs.order src).same (up_iff_of_ne link fun e' => e (port_inj (b := .mgmt) e')) ?_ rfl
        exact (grantedOrder_set (s.setLink .mgmt .up) .mgmt src _).trans (if_neg e)
    | target g =>
      exact ⟨fun k => (hs.request k).same (up_iff_of_ne link (by simp)) rfl rfl,
        fun src => (hs.order src).same (up_iff_of_ne link (by cases src <;> simp [Source.port])) rfl rfl⟩
    | host h =>
      refine ⟨fun k => ?_, fun src => ?_⟩
      · by_cases e : k = h
        · subst e
          refine .of_up (by rw [link]; exact if_pos rfl) ?_
          have grant : ((s.setLink (.host k) .up).setGrantedRequest k Config.ingressPlaces).ports.grantedRequest.get k =
            Config.ingressPlaces := (grantedRequest_set ..).trans (if_pos rfl)
          exact (congrArg₂ (· + ·) grant (congrArg List.length (empty.host k down).ingress)).trans (Nat.add_zero _)
        · refine (hs.request k).same (up_iff_of_ne link (by simpa using e)) ?_ rfl
          exact (grantedRequest_set (s.setLink (.host h) .up) h k _).trans (if_neg e)
      · by_cases e : src = .host h
        · subst e
          refine .of_up (by rw [link]; exact if_pos rfl) ?_
          have grant : (((s.setLink (.host h) .up).setGrantedRequest h Config.ingressPlaces).setGrantedOrder (.host h)
              (Config.orderPlaces (.host h))).ports.grantedOrder.get (.host h) = Config.orderPlaces (.host h) :=
            (grantedOrder_set ..).trans (if_pos rfl)
          exact (congrArg₂ (· + ·) grant (noOrders (.host h) rfl)).trans (Nat.add_zero _)
        · refine (hs.order src).same (up_iff_of_ne link fun e' => e (port_inj (b := .host h) e')) ?_ rfl
          exact (grantedOrder_set ((s.setLink (.host h) .up).setGrantedRequest h _) (.host h) src _).trans (if_neg e)
  | request h r _ up room =>
    refine ⟨fun k => ?_, fun src => (hs.order src).same Iff.rfl rfl rfl⟩
    by_cases e : k = h
    · subst e
      have total := (hs.request k).total up
      refine .of_up up ?_
      have queue : (((spendRequestCredit k s).setIngress k (s.ingress k ++ [r])).ingress k).length = (s.ingress k).length + 1 := by
        rw [ingress_setIngress, if_pos rfl, List.length_append, List.length_singleton]
      have grant : ((spendRequestCredit k s).setIngress k (s.ingress k ++ [r])).ports.grantedRequest.get k =
        s.ports.grantedRequest.get k - 1 := (grantedRequest_set ..).trans (if_pos rfl)
      rw [queue, grant]
      omega
    · refine (hs.request k).same Iff.rfl ((grantedRequest_set s h k _).trans (if_neg e)) ?_
      rw [ingress_setIngress, if_neg e]
      rfl
  | order src o _ up room queued loud =>
    refine ⟨fun k => (hs.request k).same Iff.rfl rfl rfl, fun k => ?_⟩
    by_cases e : k = src
    · subst e
      have total := (hs.order k).total up
      refine .of_up up ?_
      have queue : placesUsed (((spendOrderCredit k s).setOrders k (s.orders k ++ [o])).orders k) = placesUsed (s.orders k) + 1 := by
        unfold placesUsed
        rw [orders_setOrders, if_pos rfl, List.countP_append, List.countP_singleton, if_pos (by rw [loud]; rfl)]
      have grant : ((spendOrderCredit k s).setOrders k (s.orders k ++ [o])).ports.grantedOrder.get k =
        s.ports.grantedOrder.get k - 1 := (grantedOrder_set ..).trans (if_pos rfl)
      rw [queue, grant]
      omega
    · refine (hs.order k).same Iff.rfl ((grantedOrder_set s src k _).trans (if_neg e)) ?_
      rw [orders_setOrders, if_neg e]
      rfl
  | requestBounced h _ granted =>
    refine ⟨fun k => (hs.request k).same Iff.rfl ?_ rfl, fun src => (hs.order src).same Iff.rfl rfl rfl⟩
    rw [returnRequestCredits_grant]
    split
    · next e =>
      rw [e]
      unfold spendRequestCredit
      rw [grantedRequest_set, if_pos rfl]
      omega
    · next e => exact (grantedRequest_set s h k _).trans (if_neg e)
  | orderBounced src _ granted =>
    have some : s.ports.grantedOrder.get src ≠ 0 := by
      rcases granted with some | ⟨up, room⟩
      · exact some
      · have total := (hs.order src).total up
        omega
    refine ⟨fun k => (hs.request k).same Iff.rfl rfl rfl, fun k => (hs.order k).same Iff.rfl ?_ rfl⟩
    rw [returnOrderCredit_grant]
    split
    · next e =>
      rw [e]
      unfold spendOrderCredit
      rw [grantedOrder_set, if_pos rfl]
      omega
    · next e => exact (grantedOrder_set s src k _).trans (if_neg e)
  | head h _ head =>
    have up := empty.up_of_head head
    refine ⟨fun k => ?_, fun src => (hs.order src).same Iff.rfl rfl rfl⟩
    have queue : (takeHead h s).ingress k = if k = h then (s.ingress h).tail else s.ingress k := ingress_setIngress s h k _
    have grant : (takeHead h s).ports.grantedRequest.get k = if k = h then s.ports.grantedRequest.get h + 1
      else s.ports.grantedRequest.get k := returnRequestCredits_grant h k 1 _
    by_cases e : k = h
    · subst e
      have total := (hs.request k).total up
      have some := List.length_pos_iff.2 head
      refine .of_up up ?_
      rw [queue, if_pos rfl, grant, if_pos rfl, List.length_tail]
      omega
    · rw [if_neg e] at queue grant
      exact (hs.request k).same Iff.rfl grant (by rw [queue])
  | sent src pkt rest _ queue up =>
    have link := sendHead_link src pkt s
    obtain ⟨others, total⟩ := releaseSent_order src pkt
      (sendAgainstCredit src.port (.back pkt) (s.setReturns src (s.returns src).tail))
    refine ⟨fun k => (hs.request k).keep link (releaseSent_grantedRequest ..) (releaseSent_fwd ..), fun k => ?_⟩
    by_cases e : k = src
    · subst e
      refine .of_up (by unfold State.link; rw [link]; exact up) ?_
      exact total.trans ((hs.order k).total up)
    · exact (hs.order k).same (by unfold State.link; rw [link]) (others k e) (by
        unfold sendHead
        rw [releaseSent_orders_other _ _ e]
        rfl)
  | hostDown h l n _ running down =>
    have link := endHostSession_link h l n s
    refine ⟨fun k => ?_, fun k => ?_⟩
    · by_cases e : k = h
      · subst e
        unfold RequestBalanced
        rw [link, if_pos rfl, if_neg down, endHostSession_grantedRequest, if_pos rfl]
      · exact (hs.request k).same (up_iff_of_ne link (by simpa using e))
          (by rw [endHostSession_grantedRequest, if_neg e]) (by rw [endHostSession_ingress, if_neg e])
    · by_cases e : k = .host h
      · subst e
        have down' : (endHostSession h n (s.setLink (.host h) l)).link (Source.host h).port ≠ .up := by
          rw [show (Source.host h).port = Port.host h from rfl, link, if_pos rfl]
          exact down
        refine (if_neg down').mpr ?_
        rw [endHostSession_grantedOrder, if_pos rfl]
      · exact (hs.order k).same (up_iff_of_ne link fun e' => e (port_inj (b := .host h) e'))
          (by rw [endHostSession_grantedOrder, if_neg e]) (by rw [endHostSession_orders, if_neg e])
  | mgmtDown l n _ running down =>
    have link := endMgmtSession_link l n s
    refine ⟨fun k => ?_, fun k => ?_⟩
    · exact (hs.request k).same (up_iff_of_ne link (by simp)) (by rw [endMgmtSession_grantedRequest])
        (by unfold State.ingress; rw [endMgmtSession_fwd])
    · by_cases e : k = .mgmt
      · subst e
        have down' : (endMgmtSession n (s.setLink .mgmt l)).link Source.mgmt.port ≠ .up := by
          rw [show Source.mgmt.port = Port.mgmt from rfl, link, if_pos rfl]
          exact down
        refine (if_neg down').mpr ?_
        rw [endMgmtSession_grantedOrder, if_pos rfl]
      · exact (hs.order k).same (up_iff_of_ne link fun e' => e (port_inj (b := .mgmt) e'))
          (by rw [endMgmtSession_grantedOrder, if_neg e]) (by rw [endMgmtSession_orders, if_neg e])
  | targetDown g l _ running down =>
    have link := fun k => link_setLink s (.target g) k l
    exact ⟨fun k => (hs.request k).same (up_iff_of_ne link (by simp)) rfl rfl,
      fun src => (hs.order src).same (up_iff_of_ne link (by cases src <;> simp [Source.port])) rfl rfl⟩
  | answered src e st rs =>
    refine hs.keep rfl rfl rfl rfl fun k => ?_
    have orders : (answerOrder src e st rs s).orders k = _ := orders_setOrders s src k _
    rw [orders]
    split
    · next ek =>
      rw [ek]
      exact placesUsed_updateFirst (fun _ => by rfl) _
    · rfl
  | flushed h =>
    obtain ⟨link, order, fwd, eng⟩ := returnRequestCredits_rest h (s.ingress h).length (s.setIngress h [])
    have grant := fun k => returnRequestCredits_grant h k (s.ingress h).length (s.setIngress h [])
    have queue : ∀ k, (flushIngress h s).ingress k = if k = h then [] else s.ingress k := fun k =>
      (congrArg (fun f : Forwarding => f.ingress.get k) fwd).trans (ingress_setIngress s h k [])
    refine ⟨fun k => ?_, fun src => (hs.order src).keep link order (placesUsed_of_orders (congrArg Engine.orders eng) src)⟩
    by_cases e : k = h
    · subst e
      by_cases up : s.link (.host k) = .up
      · have total := (hs.request k).total up
        refine .of_up ((congrArg (fun c : PerPort LinkState => c.get (.host k)) link).trans up) ?_
        rw [queue, if_pos rfl]
        exact ((congrArg (· + 0) (grant k)).trans (by rw [if_pos rfl]; exact total))
      · refine (hs.request k).same (by unfold State.link; exact iff_of_eq (congrArg (fun c : PerPort LinkState => c.get (.host k) = .up) link)) ?_ ?_
        · refine (grant k).trans ?_
          rw [if_pos rfl, (empty.host k up).ingress]
          rfl
        · rw [queue, if_pos rfl, (empty.host k up).ingress]
    · refine (hs.request k).same (by unfold State.link; exact iff_of_eq (congrArg (fun c : PerPort LinkState => c.get (.host k) = .up) link)) ?_ ?_
      · exact (grant k).trans (if_neg e)
      · rw [queue, if_neg e]
  | mark h rs =>
    exact ⟨fun k => (hs.request k).same Iff.rfl rfl rfl, fun src => (hs.order src).same Iff.rfl rfl rfl⟩
  | _ => exact hs.keep rfl rfl rfl rfl fun _ => rfl

theorem Ebb.grants {s t : State} (h : Ebb s t) :
    t.ports.grantedRequest = s.ports.grantedRequest ∧ t.ports.grantedOrder = s.ports.grantedOrder := by
  cases h with
  | left i w st d => rw [(ends_leaveWaiting i st d s).ports]; exact ⟨rfl, rfl⟩
  | lost picks g => rw [(ends_removePosts picks g s).ports]; exact ⟨rfl, rfl⟩
  | delivered g pkt rest =>
    unfold deliverHead
    rw [(lowerCountOf_spec pkt _).ends.ports]
    exact ⟨rfl, rfl⟩

theorem Ebb.balanced {s t : State} (h : Ebb s t) (hs : Balanced s) : Balanced t :=
  hs.keep h.link h.grants.1 h.grants.2 h.fwd (placesUsed_of_orders (by rw [h.eng]))

theorem raiseCount_grantedRequest (r : Route) (s : State) :
    (raiseCount r s).ports.grantedRequest = s.ports.grantedRequest := by rw [raiseCount_ports]

theorem Flow.grantedRequest {s t : State} (h : Flow s t) : t.ports.grantedRequest = s.ports.grantedRequest := by
  cases h with
  | fetched h tag n hop i => exact raiseCount_grantedRequest ..
  | posted h d hop g => exact raiseCount_grantedRequest ..

theorem Flow.balanced {s t : State} (h : Flow s t) (hs : Balanced s) : Balanced t :=
  hs.keep h.traffic.link h.grantedRequest h.traffic.grantedOrder h.fwd (placesUsed_of_orders (by rw [h.traffic.eng]))

theorem Quiet.balanced {s t : State} (h : Quiet s t) (hs : Balanced s) : Balanced t :=
  hs.keep h.same.link h.same.grantedRequest h.same.grantedOrder h.same.fwd (placesUsed_of_orders h.same.orders)

theorem Balanced.elsewhere {s t : State} (hs : Balanced s) (h : Elsewhere s t)
    (orders : ∀ src, placesUsed (t.orders src) = placesUsed (s.orders src)) : Balanced t :=
  hs.keep (by rw [h.ports]) (by rw [h.ports]) (by rw [h.ports]) h.fwd orders

/-- Both invariants of ports: what is not UP is empty, and grants are balanced. -/
def PortsBalanced (s : State) : Prop := DownEmpty s ∧ Balanced s

theorem PortsBalanced.completeJob {s : State} (hs : PortsBalanced s) (j : DrainJob) : PortsBalanced (completeJob j s) :=
  ⟨hs.1.completeJob j, hs.2.elsewhere (drainsEnd_completeJob j s).elsewhere (closed_completeJob j s).places⟩

theorem movesKeep_portsBalanced : MovesKeep PortsBalanced where
  quiet h hs := ⟨h.downEmpty hs.1, h.balanced hs.2⟩
  queue h hs := ⟨h.downEmpty hs.1, h.balanced hs.1 hs.2⟩
  flow h hs := ⟨h.downEmpty hs.1, h.balanced hs.2⟩
  decision h hs := ⟨h.downEmpty hs.1, hs.2.elsewhere h.elsewhere h.orders.places⟩
  drains h hs :=
    have before := keeps_ebbs (P := PortsBalanced) (fun m hu => ⟨m.downEmpty hu.1, m.balanced hu.2⟩)
      (fun m hu => ⟨m.downEmpty hu.1, m.balanced hu.1 hu.2⟩) (fun m hu => ⟨m.downEmpty hu.1, m.balanced hu.2⟩) h hs
    completeDrains_keeps (P := PortsBalanced) (fun j _ _ hu => hu.completeJob j) _ before

theorem balanced_powerOnValues (ph : Phase) (cause : ResetCause) (s : State) : Balanced (powerOnValues ph cause s) := by
  have values := powerOnValues_hold ph cause s
  have down : ∀ p, (powerOnValues ph cause s).link p ≠ .up := fun p => by rw [(values.links p).1]; decide
  exact ⟨fun h => (if_neg (down _)).mpr (values.hosts h).2.2.2.2.2.2, fun src => (if_neg (down _)).mpr (values.sources src).2.2⟩

theorem Balanced.notify {s : State} (hs : Balanced s) (before : State) (prompt : Option Port) : Balanced (notify before prompt s) :=
  hs.elsewhere (elsewhere_notify ..) fun src => by rw [notify_orders]

/-- Settles O16: a unit that enters a queue spends the credit of its place, and the place's credit goes back as it is freed. -/
theorem creditsMatchKept : Obligations.CreditsMatchKept := by
  unfold Obligations.CreditsMatchKept
  intro s t empty hs h
  rw [downPortsEmpty_iff] at empty
  rw [creditsMatch_iff] at hs ⊢
  have both : PortsBalanced t := by
    refine step_keeps movesKeep_portsBalanced (fun before u hu => ⟨hu.1.notify before (by simp), hu.2.notify ..⟩)
      (fun u p running answering hu => ?_) (fun u src pkt rest queue up hu => ?_)
      (fun ph cause u _ => ⟨downEmpty_powerOnValues cause u, balanced_powerOnValues ph cause u⟩) (fun u rest hu => ?_) ⟨empty, hs⟩ h
    · have moved := movesKeep_portsBalanced.moves (moves_of_startSent running answering) hu
      refine ⟨moved.1.notify u fun k hk => ?_, moved.2.notify ..⟩
      cases hk
      rw [startSent_link, if_pos rfl]
    · have moved := movesKeep_portsBalanced.moves (moves_of_sendHead queue up) hu
      refine ⟨moved.1.notify u fun k hk => ?_, moved.2.notify ..⟩
      rw [promptOf_eq_some hk, offerFreed_link]
      unfold State.link
      rw [sendHead_link]
      exact up
    · have same : DownSame u { u with pending := rest } := ⟨rfl, fun _ => rfl, rfl, rfl, rfl, rfl⟩
      exact ⟨same.downEmpty rfl hu.1, hu.2.keep rfl rfl rfl rfl fun _ => rfl⟩
  exact both.2

end Sys2Proof.Machine
end

section
/-! PROOFS. What stands in return queues. -/

namespace Sys2Proof.Machine

/-! ### Return queues, source by source (R65, R75, R76, R152, R153) -/

/-- The REPLYs in a return queue stand for distinct ANSWERED entries of that host. -/
structure RepliesMatch (s : State) (src : Source) : Prop where
  distinct : ((s.returns src).filterMap replyEntry).Nodup
  answered : ∀ i ∈ (s.returns src).filterMap replyEntry, ∃ a, (s.entry i).state = .answered a ∧ src = .host a.host

/-- The ANSWERED orders of a queue. -/
def answeredOrders (q : List OrderEntry) : Nat := q.countP fun e => e.state == .answered

/-- The ORDER_REPLYs of a source are no more than its ANSWERED orders, and its silent orders are TAKEN. -/
structure OrderRepliesMatch (s : State) (src : Source) : Prop where
  orders : (s.returns src).countP isOrderReply ≤ answeredOrders (s.orders src)
  silent : ∀ e ∈ s.orders src, e.silent = true → isTaken e = true

/-- The packets of the Event Unit that a source's return queue may hold: one NOTICE for M, one notification for a host. -/
def tellsOf : Source → ReturnPacket → Bool
  | .mgmt => isNotice
  | .host _ => isNotification

/-- The packets that a source's return queue may not hold. -/
def strayOf : Source → ReturnPacket → Bool
  | .mgmt => isNotification
  | .host _ => isNotice

structure Told (s : State) : Prop where
  one : ∀ src, (s.returns src).countP (tellsOf src) ≤ 1
  noStray : ∀ src, (s.returns src).countP (strayOf src) = 0

/-- The invariant, source by source. -/
structure Returned (s : State) : Prop where
  replies : ∀ src, RepliesMatch s src
  orders : ∀ src, OrderRepliesMatch s src

theorem returnsMatch_iff (s : State) : ReturnsMatch s ↔ Returned s ∧ Told s := by
  constructor
  · intro h
    refine ⟨⟨fun src => ?_, fun src => ⟨h.orders src, h.silent src⟩⟩, fun src => ?_, fun src => ?_⟩
    · cases src with
      | mgmt => exact ⟨by rw [h.mgmtReplies]; exact List.nodup_nil, fun i hi => by rw [h.mgmtReplies] at hi; cases hi⟩
      | host k =>
        refine ⟨h.replies k, fun i hi => ?_⟩
        obtain ⟨a, ha, host⟩ := h.answered k i hi
        exact ⟨a, ha, by rw [host]⟩
    · cases src with
      | mgmt => exact h.notices.1
      | host k => exact h.notifications.1 k
    · cases src with
      | mgmt => exact h.notifications.2
      | host k => exact h.notices.2 k
  · rintro ⟨h, told⟩
    refine ⟨fun k => (h.replies _).distinct, fun k i hi => ?_, ?_, fun src => (h.orders src).orders, fun src => (h.orders src).silent,
      ⟨told.one .mgmt, fun k => told.noStray (.host k)⟩, fun k => told.one (.host k), told.noStray .mgmt⟩
    · obtain ⟨a, ha, host⟩ := (h.replies _).answered i hi
      exact ⟨a, ha, (Source.host.inj host).symm⟩
    · refine List.eq_nil_iff_forall_not_mem.2 fun i hi => ?_
      obtain ⟨a, _, host⟩ := (h.replies _).answered i hi
      cases host

/-! ### What a move does to one return queue -/

/-- The entries that await the leaving of a source's REPLYs stay ANSWERED, but for the one named. -/
def AnsweredStay (s t : State) (src : Source) (but : Option (Fin Config.replyEntries)) : Prop :=
  ∀ i a, (s.entry i).state = .answered a → src = .host a.host → but ≠ some i → (t.entry i).state = .answered a

/-- What a move does to one return queue: nothing, it empties it, its head leaves, or a REPLY or ORDER_REPLY enters its tail. -/
inductive ReturnStep (s t : State) (src : Source) : Prop
  | stand (returns : t.returns src = s.returns src) (stay : AnsweredStay s t src none)
  | emptied (returns : t.returns src = [])
  | left (pkt : ReturnPacket) (returns : s.returns src = pkt :: t.returns src) (stay : AnsweredStay s t src (replyEntry pkt))
  | replied (i : Fin Config.replyEntries) (tag : BitVec 8) (st : Status) (d : List Byte)
      (returns : t.returns src = s.returns src ++ [.reply i tag st d]) (before : ∀ a, (s.entry i).state ≠ .answered a)
      (now : ∃ a, (t.entry i).state = .answered a ∧ src = .host a.host) (stay : AnsweredStay s t src none)
  | ordered (q c : Byte) (st : Status) (rs : List Byte) (returns : t.returns src = s.returns src ++ [.orderReply q c st rs])
      (stay : AnsweredStay s t src none)

theorem AnsweredStay.of_entry {s t : State} (h : ∀ i, t.entry i = s.entry i) (src : Source) : AnsweredStay s t src none :=
  fun i _ ha _ _ => by rw [h]; exact ha

theorem ReturnStep.same {s t : State} (entry : ∀ i, t.entry i = s.entry i) (returns : t.ports.returns = s.ports.returns)
    (src : Source) : ReturnStep s t src :=
  .stand (by unfold State.returns; rw [returns]) (.of_entry entry src)

theorem RepliesMatch.stays {s t : State} {src : Source} (hs : RepliesMatch s src) (stay : AnsweredStay s t src none)
    {i : Fin Config.replyEntries} (hi : i ∈ (s.returns src).filterMap replyEntry) :
    ∃ a, (t.entry i).state = .answered a ∧ src = .host a.host := by
  obtain ⟨a, ha, host⟩ := hs.answered i hi
  exact ⟨a, stay i a ha host (by simp), host⟩

theorem RepliesMatch.step {s t : State} {src : Source} (hs : RepliesMatch s src) (h : ReturnStep s t src) : RepliesMatch t src := by
  cases h with
  | stand returns stay => exact ⟨by rw [returns]; exact hs.distinct, fun i hi => hs.stays stay (by rwa [returns] at hi)⟩
  | emptied returns => exact ⟨by rw [returns]; exact List.nodup_nil, fun i hi => by rw [returns] at hi; cases hi⟩
  | left pkt returns stay =>
    obtain ⟨distinct, answered⟩ := hs
    rw [returns] at distinct answered
    rw [List.filterMap_cons] at distinct answered
    cases hp : replyEntry pkt with
    | none =>
      rw [hp] at distinct answered stay
      exact ⟨distinct, fun i hi => by
        obtain ⟨a, ha, host⟩ := answered i hi
        exact ⟨a, stay i a ha host (by simp), host⟩⟩
    | some j =>
      rw [hp] at distinct answered stay
      obtain ⟨fresh, distinct⟩ := List.nodup_cons.1 distinct
      refine ⟨distinct, fun i hi => ?_⟩
      obtain ⟨a, ha, host⟩ := answered i (List.mem_cons_of_mem _ hi)
      exact ⟨a, stay i a ha host fun e => fresh (by rw [Option.some.inj e]; exact hi), host⟩
  | replied i tag st d returns before now stay =>
    have queue : (t.returns src).filterMap replyEntry = (s.returns src).filterMap replyEntry ++ [i] := by
      rw [returns, List.filterMap_append]
      rfl
    refine ⟨?_, fun k hk => ?_⟩
    · rw [queue, List.nodup_append]
      refine ⟨hs.distinct, List.nodup_singleton i, fun k hk l hl => ?_⟩
      rw [List.mem_singleton] at hl
      rintro rfl
      obtain ⟨a, ha, _⟩ := hs.answered k hk
      exact before a (hl ▸ ha)
    · rw [queue, List.mem_append, List.mem_singleton] at hk
      rcases hk with hk | rfl
      · exact hs.stays stay hk
      · exact now
  | ordered q c st rs returns stay =>
    have queue : (t.returns src).filterMap replyEntry = (s.returns src).filterMap replyEntry := by
      rw [returns, List.filterMap_append]
      exact List.append_nil _
    exact ⟨by rw [queue]; exact hs.distinct, fun i hi => hs.stays stay (by rwa [queue] at hi)⟩

/-- No move but a notice adds a packet of the Event Unit. -/
theorem ReturnStep.countP_le {s t : State} {src : Source} (h : ReturnStep s t src) {p : ReturnPacket → Bool}
    (reply : ∀ i tag st d, p (.reply i tag st d) = false) (order : ∀ q c st rs, p (.orderReply q c st rs) = false) :
    (t.returns src).countP p ≤ (s.returns src).countP p := by
  cases h with
  | stand returns => rw [returns]
  | emptied returns => rw [returns]; exact Nat.zero_le _
  | left pkt returns => rw [returns, List.countP_cons]; omega
  | replied i tag st d returns => rw [returns, List.countP_append, List.countP_singleton, reply]; exact Nat.le_refl _
  | ordered q c st rs returns => rw [returns, List.countP_append, List.countP_singleton, order]; exact Nat.le_refl _

/-- No return queue has more packets of the Event Unit. -/
structure TellsFall (s t : State) : Prop where
  tells : ∀ src, (t.returns src).countP (tellsOf src) ≤ (s.returns src).countP (tellsOf src)
  strays : ∀ src, (t.returns src).countP (strayOf src) ≤ (s.returns src).countP (strayOf src)

theorem TellsFall.of_steps {s t : State} (h : ∀ src, ReturnStep s t src) : TellsFall s t :=
  ⟨fun src => (h src).countP_le (fun _ _ _ _ => by cases src <;> rfl) fun _ _ _ _ => by cases src <;> rfl,
    fun src => (h src).countP_le (fun _ _ _ _ => by cases src <;> rfl) fun _ _ _ _ => by cases src <;> rfl⟩

theorem TellsFall.trans {s t u : State} (a : TellsFall s t) (b : TellsFall t u) : TellsFall s u :=
  ⟨fun src => (b.tells src).trans (a.tells src), fun src => (b.strays src).trans (a.strays src)⟩

theorem Told.falls {s t : State} (hs : Told s) (h : TellsFall s t) : Told t :=
  ⟨fun src => (h.tells src).trans (hs.one src), fun src => Nat.le_zero.1 ((h.strays src).trans (Nat.le_of_eq (hs.noStray src)))⟩

/-! ### The moves, queue by queue -/

theorem Quiet.returnStep {s t : State} (h : Quiet s t) (src : Source) : ReturnStep s t src := .same h.same.entry h.same.returns src

theorem Flow.returnStep {s t : State} (h : Flow s t) (src : Source) : ReturnStep s t src := by
  refine .stand (h.returns src) fun i a ha _ _ => ?_
  cases h with
  | fetched h tag n hop k _ head free =>
    rw [forwardFetch_entry, if_neg]
    · exact ha
    · rintro rfl
      rw [free] at ha
      cases ha
  | posted h d hop g => rw [placePost_entry]; exact ha

/-- What is ANSWERED stays so where an entry leaves WAITING. -/
theorem answeredStay_leaveWaiting {s : State} {i : Fin Config.replyEntries} {w : Waiting} (h : (s.entry i).state = .waiting w)
    (st : Status) (d : List Byte) (src : Source) : AnsweredStay s (leaveWaiting i st d s) src none := fun k a ha _ _ => by
  rw [leaveWaiting_entry h, if_neg]
  · exact ha
  · rintro rfl
    rw [h] at ha
    cases ha

theorem Ebb.returnStep {s t : State} (h : Ebb s t) (src : Source) : ReturnStep s t src := by
  have stay : AnsweredStay s t src none := by
    rcases h.entries with stand | ⟨i, w, st, d, waiting, rfl⟩
    · exact .of_entry stand src
    · exact answeredStay_leaveWaiting waiting st d src
  rcases h.returns src with same | ⟨i, w, st, d, waiting, loud, rfl, host, returns⟩
  · exact .stand same stay
  · refine .replied i w.tag st d returns (fun a ha => by rw [waiting] at ha; cases ha) ?_ stay
    rw [leaveWaiting_entry waiting, if_pos rfl, if_neg (by rw [loud]; exact Bool.false_ne_true)]
    exact ⟨_, rfl, host⟩

theorem Closed.returnStep {src : Source} {i : Fin Config.slots} {st : Status} {s t : State} (h : Closed src i st s t)
    (entry : ∀ k, t.entry k = s.entry k) (k : Source) : ReturnStep s t k := by
  have stay := AnsweredStay.of_entry entry k
  cases h with
  | none same => exact .stand (same k).2 stay
  | removed e found silent orders returns => exact .stand (returns k) stay
  | answered e found loud orders returns =>
    by_cases ek : k = src
    · exact .ordered _ _ _ _ ((returns k).trans (if_pos ek)) stay
    · exact .stand ((returns k).trans (if_neg ek)) stay

theorem Decision.returnStep {s t : State} (h : Decision s t) (src : Source) : ReturnStep s t src := by
  have entry := h.elsewhere.entry
  cases h.orders with
  | stand orders returns => exact .same entry returns src
  | taken src' i e oldest orders returns => exact .same entry returns src
  | closed src' i st h => exact h.returnStep entry src

theorem returnStep_completeJob (j : DrainJob) (s : State) (src : Source) : ReturnStep s (completeJob j s) src :=
  (closed_completeJob j s).returnStep (drainsEnd_completeJob j s).elsewhere.entry src

/-- What leaves frees the entry of its REPLY alone. -/
theorem releaseSent_entry {src : Source} {pkt : ReturnPacket} {s : State} {i : Fin Config.replyEntries}
    (h : replyEntry pkt ≠ some i) : (releaseSent src pkt s).entry i = s.entry i := by
  unfold releaseSent
  split
  · next k _ _ _ =>
    split
    · exact (entry_setEntry s k i _).trans (if_neg fun e => h (by rw [e]; rfl))
    · rfl
  · split <;> rfl
  · rfl
  · rfl

theorem sendHead_returns (src k : Source) (pkt : ReturnPacket) (s : State) :
    (sendHead src pkt s).returns k = if k = src then (s.returns src).tail else s.returns k := by
  unfold State.returns sendHead
  rw [(releaseSent_link ..).2]
  exact returns_setReturns s src k _

theorem sendHead_entry {src : Source} {pkt : ReturnPacket} {s : State} {i : Fin Config.replyEntries}
    (h : replyEntry pkt ≠ some i) : (sendHead src pkt s).entry i = s.entry i :=
  releaseSent_entry (s := sendAgainstCredit src.port (.back pkt) (s.setReturns src (s.returns src).tail)) h

theorem orphanedEntry_other {h : HostId} {e : Entry} {a : Answered} (ha : e.state = .answered a) (other : a.host ≠ h) :
    orphanedEntry h e = e := by
  unfold orphanedEntry
  rw [ha]
  exact if_neg other

theorem QueueMove.returnStep {s t : State} (h : QueueMove s t) (hs : ∀ src, RepliesMatch s src) (src : Source) :
    ReturnStep s t src := by
  cases h with
  | refused h tag st i _ head free =>
    have entry : ∀ k, (answerRefused h tag st i s).entry k = _ := fun k => entry_setEntry s i k _
    have returns : (answerRefused h tag st i s).returns src = _ := returns_pushReturn (.host h) src _ _
    have stay : AnsweredStay s (answerRefused h tag st i s) src none := fun k a ha _ _ => by
      rw [entry, if_neg]
      · exact ha
      · rintro rfl
        rw [free] at ha
        cases ha
    by_cases e : src = .host h
    · refine .replied i tag st [] (returns.trans (if_pos e)) (fun a ha => by rw [free] at ha; cases ha) ?_ stay
      rw [entry, if_pos rfl]
      exact ⟨_, rfl, e⟩
    · exact .stand (returns.trans (if_neg e)) stay
  | sent from_ pkt rest _ queue up =>
    have returns := sendHead_returns from_ src pkt s
    by_cases e : src = from_
    · subst e
      rw [if_pos rfl, queue, List.tail_cons] at returns
      exact .left pkt (by rw [returns]; exact queue) fun i a ha _ other => by rw [sendHead_entry other]; exact ha
    · rw [if_neg e] at returns
      refine .stand returns fun i a ha host _ => ?_
      rw [sendHead_entry]
      · exact ha
      · intro hp
        obtain ⟨a', ha', host'⟩ := (hs from_).answered i (by
          rw [queue, List.filterMap_cons, hp]
          exact List.mem_cons_self ..)
        rw [ha] at ha'
        cases ha'
        exact e (host.trans host'.symm)
  | hostDown h l n =>
    by_cases e : src = .host h
    · exact .emptied (by rw [endHostSession_returns, if_pos e])
    · refine .stand (by rw [endHostSession_returns, if_neg e]) fun i a ha host _ => ?_
      rw [endHostSession_entry, orphanedEntry_other ha fun e' => e (by rw [host, e'])]
      exact ha
  | mgmtDown l n =>
    by_cases e : src = .mgmt
    · exact .emptied (by rw [endMgmtSession_returns, if_pos e])
    · exact .stand (by rw [endMgmtSession_returns, if_neg e]) (.of_entry (entry_of_table (endMgmtSession_table l n s)) src)
  | answered from_ e st rs =>
    have returns : (answerOrder from_ e st rs s).returns src = _ := returns_pushReturn from_ src _ _
    have stay : AnsweredStay s (answerOrder from_ e st rs s) src none := .of_entry (fun _ => rfl) src
    by_cases es : src = from_
    · exact .ordered _ _ _ _ (returns.trans (if_pos es)) stay
    · exact .stand (returns.trans (if_neg es)) stay
  | starts p => exact .same (fun i => by cases p <;> rfl) (by cases p <;> rfl) src
  | flushed h =>
    refine .same (fun i => ?_) ?_ src
    · unfold flushIngress returnRequestCredits
      split <;> rfl
    · unfold flushIngress returnRequestCredits
      split <;> rfl
  | _ => exact .same (fun _ => by rfl) (by rfl) src

/-! ### Orders answered and ORDER_REPLYs (R75, R76) -/

theorem answeredOrders_updateFirst {p : OrderEntry → Bool} {f : OrderEntry → OrderEntry} {q : List OrderEntry} {e : OrderEntry}
    (found : q.find? p = some e) (before : (e.state == .answered) = false) (after : ((f e).state == .answered) = true) :
    answeredOrders (updateFirst p f q) = answeredOrders q + 1 := by
  obtain ⟨hp, older, newer, hq, ho⟩ := List.find?_eq_some_iff_append.1 found
  unfold answeredOrders
  rw [hq, updateFirst_append _ _ _ _ _ (fun y hy => by simpa using ho y hy) hp]
  simp only [List.countP_append, List.countP_cons, before, after]
  simp only [if_true, Bool.false_eq_true, if_false]
  omega

theorem mem_updateFirst {α : Type} {p : α → Bool} {f : α → α} {q : List α} {x : α} (h : x ∈ updateFirst p f q) :
    x ∈ q ∨ ∃ e, q.find? p = some e ∧ x = f e := by
  induction q with
  | nil => cases h
  | cons y q ih =>
    unfold updateFirst at h
    split at h
    · next hy =>
      rcases List.mem_cons.1 h with rfl | h
      · exact .inr ⟨y, List.find?_cons_of_pos hy, rfl⟩
      · exact .inl (List.mem_cons_of_mem _ h)
    · next hy =>
      rcases List.mem_cons.1 h with rfl | h
      · exact .inl (List.mem_cons_self ..)
      · rcases ih h with h | ⟨e, he, rfl⟩
        · exact .inl (List.mem_cons_of_mem _ h)
        · exact .inr ⟨e, by rwa [List.find?_cons_of_neg hy], rfl⟩

theorem OrderRepliesMatch.same {s t : State} {src : Source} (hs : OrderRepliesMatch s src) (orders : t.orders src = s.orders src)
    (returns : (t.returns src).countP isOrderReply = (s.returns src).countP isOrderReply) : OrderRepliesMatch t src :=
  ⟨by rw [orders, returns]; exact hs.orders, by rw [orders]; exact hs.silent⟩

theorem OrderRepliesMatch.keep {s t : State} {src : Source} (hs : OrderRepliesMatch s src) (orders : t.eng.orders = s.eng.orders)
    (returns : t.ports.returns = s.ports.returns) : OrderRepliesMatch t src :=
  hs.same (by unfold State.orders; rw [orders]) (by unfold State.returns; rw [returns])

/-- An order that is not ANSWERED becomes so as its reply is queued. -/
theorem OrderRepliesMatch.answers {s t : State} {src : Source} (hs : OrderRepliesMatch s src) {p : OrderEntry → Bool}
    {e : OrderEntry} (found : (s.orders src).find? p = some e) (before : (e.state == .answered) = false)
    (loud : e.silent = false)
    (orders : t.orders src = updateFirst p (fun x => { x with state := .answered }) (s.orders src)) {q c : Byte} {st : Status}
    {rs : List Byte} (returns : t.returns src = s.returns src ++ [.orderReply q c st rs]) : OrderRepliesMatch t src := by
  refine ⟨?_, fun x hx silent => ?_⟩
  · rw [orders, answeredOrders_updateFirst found before (by rfl), returns, List.countP_append]
    exact Nat.succ_le_succ hs.orders
  · rw [orders] at hx
    rcases mem_updateFirst hx with hx | ⟨y, hy, rfl⟩
    · exact hs.silent x hx silent
    · cases found.symm.trans hy
      exact absurd (loud.symm.trans silent) Bool.false_ne_true

theorem isAnsweredAs_answered {q : Byte} {e : OrderEntry} (h : isAnsweredAs q e = true) : (e.state == .answered) = true := by
  simp only [isAnsweredAs, Bool.and_eq_true] at h
  exact h.1.1

theorem answeredOrders_eraseP {p : OrderEntry → Bool} {q : List OrderEntry} (some : q.any p = true)
    (answered : ∀ e, p e = true → (e.state == .answered) = true) : answeredOrders (q.eraseP p) + 1 = answeredOrders q := by
  obtain ⟨e, he, hp⟩ := List.any_eq_true.1 some
  obtain ⟨e', older, newer, _, hp', split, erased⟩ := List.exists_of_eraseP he hp
  unfold answeredOrders
  rw [erased, split, List.countP_append, List.countP_append, List.countP_cons, if_pos (answered e' hp')]
  omega

/-- The removal of a TAKEN order removes none that is ANSWERED. -/
theorem answeredOrders_eraseP_taken {i : Fin Config.slots} (q : List OrderEntry) :
    answeredOrders (q.eraseP (isTakenFor i)) = answeredOrders q := by
  rcases List.exists_or_eq_self_of_eraseP (isTakenFor i) q with same | ⟨e, older, newer, _, taken, split, erased⟩
  · rw [same]
  · unfold answeredOrders
    rw [erased, split, List.countP_append, List.countP_append, List.countP_cons, if_neg]
    · rfl
    · rw [(isTakenFor_iff i e).1 taken]
      exact Bool.false_ne_true

theorem Closed.orderReplies {src : Source} {i : Fin Config.slots} {st : Status} {s t : State} (h : Closed src i st s t)
    {k : Source} (hs : OrderRepliesMatch s k) : OrderRepliesMatch t k := by
  cases h with
  | none same => exact hs.same (same k).1 (by rw [(same k).2])
  | removed e found silent orders returns =>
    by_cases ek : k = src
    · subst ek
      have orders := (orders k).trans (if_pos rfl)
      refine ⟨?_, fun x hx => hs.silent x (List.mem_of_mem_eraseP (orders ▸ hx))⟩
      rw [orders, returns, answeredOrders_eraseP_taken]
      exact hs.orders
    · exact hs.same ((orders k).trans (if_neg ek)) (by rw [returns])
  | answered e found loud orders returns =>
    by_cases ek : k = src
    · subst ek
      have taken := (isTakenFor_iff i e).1 (List.find?_some found)
      exact hs.answers found (by rw [taken]; rfl) loud ((orders k).trans (if_pos rfl)) ((returns k).trans (if_pos rfl))
    · exact hs.same ((orders k).trans (if_neg ek)) (by rw [(returns k).trans (if_neg ek)])

theorem OrderRepliesMatch.loud_of_queued {s : State} {src : Source} (hs : OrderRepliesMatch s src) {e : OrderEntry}
    (oldest : oldestQueued s src = some e) : e.silent = false := by
  by_contra silent
  obtain ⟨i, hi⟩ := (isTaken_iff e).1 (hs.silent e (List.mem_of_find?_eq_some oldest) (by simpa using silent))
  have queued := (isQueued_iff e).1 (List.find?_some oldest)
  rw [hi] at queued
  cases queued

theorem Decision.orderReplies {s t : State} (h : Decision s t) {k : Source} (hs : OrderRepliesMatch s k) :
    OrderRepliesMatch t k := by
  cases h.orders with
  | stand orders returns => exact hs.keep orders returns
  | taken src i e oldest orders returns =>
    have returns : t.returns k = s.returns k := by unfold State.returns; rw [returns]
    by_cases ek : k = src
    · subst ek
      have orders := (orders k).trans (if_pos rfl)
      refine ⟨?_, fun x hx silent => ?_⟩
      · rw [orders, returns]
        refine hs.orders.trans (Nat.le_of_eq (countP_updateFirst (fun x hx => ?_) _).symm)
        rw [(isQueued_iff x).1 hx]
        rfl
      · rw [orders] at hx
        rcases mem_updateFirst hx with hx | ⟨y, _, rfl⟩
        · exact hs.silent x hx silent
        · rfl
    · exact hs.same ((orders k).trans (if_neg ek)) (by rw [returns])
  | closed src i st h => exact h.orderReplies hs

theorem Ebb.orderReplies {s t : State} (h : Ebb s t) {k : Source} (hs : OrderRepliesMatch s k) : OrderRepliesMatch t k := by
  refine hs.same (by unfold State.orders; rw [h.eng]) ?_
  rcases h.returns k with same | ⟨i, w, st, d, _, _, _, _, returns⟩
  · rw [same]
  · rw [returns, List.countP_append]
    rfl

/-- An ORDER_REPLY that leaves takes its order with it. -/
theorem sendHead_orderReplies {s : State} {src : Source} {pkt : ReturnPacket} {rest : List ReturnPacket}
    (queue : s.returns src = pkt :: rest) (hs : OrderRepliesMatch s src) : OrderRepliesMatch (sendHead src pkt s) src := by
  have returns : (sendHead src pkt s).returns src = rest := by rw [sendHead_returns, if_pos rfl, queue, List.tail_cons]
  have fewer : rest.countP isOrderReply ≤ answeredOrders (s.orders src) :=
    (by rw [queue, List.countP_cons]; omega : rest.countP isOrderReply ≤ (s.returns src).countP isOrderReply).trans hs.orders
  have stand : (sendHead src pkt s).orders src = s.orders src → OrderRepliesMatch (sendHead src pkt s) src := fun orders =>
    ⟨by rw [returns, orders]; exact fewer, by rw [orders]; exact hs.silent⟩
  cases pkt with
  | reply i tag st d =>
    refine stand ?_
    unfold sendHead releaseSent
    dsimp only
    split <;> rfl
  | orderReply q c st rs =>
    by_cases some : (s.orders src).any (isAnsweredAs q) = true
    · have orders : (sendHead src (.orderReply q c st rs) s).orders src = (s.orders src).eraseP (isAnsweredAs q) := by
        unfold sendHead releaseSent
        dsimp only
        rw [if_pos (by exact some)]
        exact (orders_setOrders _ src src _).trans (if_pos rfl)
      refine ⟨?_, fun e he => hs.silent e (List.mem_of_mem_eraseP (orders ▸ he))⟩
      have freed := answeredOrders_eraseP some fun e he => isAnsweredAs_answered he
      have count := hs.orders
      rw [queue, List.countP_cons, if_pos (by rfl)] at count
      rw [returns, orders]
      omega
    · refine stand ?_
      unfold sendHead releaseSent
      dsimp only
      rw [if_neg (by exact some)]
      rfl
  | notice fs => exact stand rfl
  | notification a v => exact stand rfl

theorem QueueMove.orderReplies {s t : State} (h : QueueMove s t) {k : Source} (hs : OrderRepliesMatch s k) :
    OrderRepliesMatch t k := by
  cases h with
  | order src e _ up room queued loud =>
    by_cases ek : k = src
    · subst ek
      have orders : ((spendOrderCredit k s).setOrders k (s.orders k ++ [e])).orders k = s.orders k ++ [e] :=
        (orders_setOrders ..).trans (if_pos rfl)
      refine ⟨?_, fun x hx silent => ?_⟩
      · rw [orders]
        refine hs.orders.trans ?_
        unfold answeredOrders
        rw [List.countP_append]
        exact Nat.le_add_right ..
      · rw [orders, List.mem_append, List.mem_singleton] at hx
        rcases hx with hx | rfl
        · exact hs.silent x hx silent
        · exact absurd (loud.symm.trans silent) Bool.false_ne_true
    · exact hs.same ((orders_setOrders _ src k _).trans (if_neg ek)) rfl
  | refused h tag st i =>
    refine hs.same rfl ?_
    have returns : (answerRefused h tag st i s).returns k = _ := returns_pushReturn (.host h) k _ _
    rw [returns]
    split
    · rw [List.countP_append]; rfl
    · rfl
  | sent src pkt rest _ queue up =>
    by_cases ek : k = src
    · subst ek
      exact sendHead_orderReplies queue hs
    · refine hs.same ?_ (by rw [sendHead_returns, if_neg ek])
      unfold sendHead
      rw [releaseSent_orders_other _ _ ek]
      rfl
  | hostDown h l n =>
    by_cases ek : k = .host h
    · refine ⟨?_, fun e he _ => ?_⟩
      · rw [endHostSession_returns, if_pos ek]
        exact Nat.zero_le _
      · rw [endHostSession_orders, if_pos ek] at he
        exact (isTaken_silent_of_silenced e he).1
    · exact hs.same (by rw [endHostSession_orders, if_neg ek]) (by rw [endHostSession_returns, if_neg ek])
  | mgmtDown l n =>
    by_cases ek : k = .mgmt
    · refine ⟨?_, fun e he _ => ?_⟩
      · rw [endMgmtSession_returns, if_pos ek]
        exact Nat.zero_le _
      · rw [endMgmtSession_orders, if_pos ek] at he
        exact (isTaken_silent_of_silenced e he).1
    · exact hs.same (by rw [endMgmtSession_orders, if_neg ek]) (by rw [endMgmtSession_returns, if_neg ek])
  | answered src e st rs _ oldest =>
    have orders : (answerOrder src e st rs s).orders k = _ := orders_setOrders s src k _
    have returns : (answerOrder src e st rs s).returns k = _ := returns_pushReturn src k _ _
    by_cases ek : k = src
    · subst ek
      have queued := (isQueued_iff e).1 (List.find?_some oldest)
      exact hs.answers oldest (by rw [queued]; rfl) (hs.loud_of_queued oldest) (orders.trans (if_pos rfl))
        (returns.trans (if_pos rfl))
    · exact hs.same (orders.trans (if_neg ek)) (by rw [returns.trans (if_neg ek)]; rfl)
  | starts p => cases p <;> exact hs.keep rfl rfl
  | flushed h =>
    refine hs.keep ?_ ?_
    · unfold flushIngress returnRequestCredits
      split <;> rfl
    · unfold flushIngress returnRequestCredits
      split <;> rfl
  | _ => exact hs.keep rfl rfl

theorem Quiet.orderReplies {s t : State} (h : Quiet s t) {k : Source} (hs : OrderRepliesMatch s k) : OrderRepliesMatch t k :=
  hs.keep h.same.orders h.same.returns

theorem Flow.orderReplies {s t : State} (h : Flow s t) {k : Source} (hs : OrderRepliesMatch s k) : OrderRepliesMatch t k :=
  hs.same (by unfold State.orders; rw [h.traffic.eng]) (by rw [h.returns])

/-! ### All moves -/

/-- The invariant, and no packet of the Event Unit more than in an earlier state. -/
def ReturnedSince (s t : State) : Prop := Returned t ∧ TellsFall s t

theorem ReturnedSince.step {s t u : State} (h : ReturnedSince s t) (steps : ∀ src, ReturnStep t u src)
    (orders : ∀ src, OrderRepliesMatch t src → OrderRepliesMatch u src) : ReturnedSince s u :=
  ⟨⟨fun src => (h.1.replies src).step (steps src), fun src => orders src (h.1.orders src)⟩, h.2.trans (.of_steps steps)⟩

theorem movesKeep_returnedSince (s : State) : MovesKeep (ReturnedSince s) where
  quiet h hs := hs.step h.returnStep fun _ => h.orderReplies
  queue h hs := hs.step (h.returnStep hs.1.replies) fun _ => h.orderReplies
  flow h hs := hs.step h.returnStep fun _ => h.orderReplies
  decision h hs := hs.step h.returnStep fun _ => h.orderReplies
  drains h hs :=
    have before := keeps_ebbs (P := ReturnedSince s) (fun m hu => hu.step m.returnStep fun _ => m.orderReplies)
      (fun m hu => hu.step (m.returnStep hu.1.replies) fun _ => m.orderReplies)
      (fun m hu => hu.step m.returnStep fun _ => m.orderReplies) h hs
    completeDrains_keeps (P := ReturnedSince s) (fun j u _ hu =>
      hu.step (returnStep_completeJob j u) fun _ => (closed_completeJob j u).orderReplies) _ before

theorem TellsFall.refl (s : State) : TellsFall s s := ⟨fun _ => Nat.le_refl _, fun _ => Nat.le_refl _⟩

theorem Returned.moves {s t : State} (hs : Returned s) (h : Moves s t) : Returned t ∧ TellsFall s t :=
  (movesKeep_returnedSince s).moves h ⟨hs, .refl s⟩

/-! ### Notices -/

/-- A packet of the Event Unit is no REPLY, no ORDER_REPLY and no packet for the other kind of source. -/
theorem tellsOf_kind {src : Source} {pkt : ReturnPacket} (h : tellsOf src pkt = true) :
    replyEntry pkt = none ∧ isOrderReply pkt = false ∧ strayOf src pkt = false := by
  cases src <;> cases pkt <;> simp_all [tellsOf, strayOf, isNotice, isNotification, replyEntry, isOrderReply]

theorem countP_eq_zero_of_any {p : ReturnPacket → Bool} {q : List ReturnPacket} (h : q.any p = false) : q.countP p = 0 :=
  List.countP_eq_zero.2 fun x hx => by simpa using List.any_eq_false.1 h x hx

theorem notifyMgmt_prompted_returns {s : State} (o : Bool) (owed : s.events.noticeOwed = true) :
    (notifyMgmt o true s).returns .mgmt =
      s.returns .mgmt ++ if activeFlags s.events = 0 then [] else [.notice (activeFlags s.events)] := by
  rw [notifyMgmt_prompted o owed]
  exact PerSource.get_set_self s.ports.returns .mgmt _

theorem notifyHost_prompted_returns {h : HostId} {s : State} (o : Bool) (owed : s.events.notificationOwed = true) :
    (notifyHost h o true s).returns (.host h) =
      s.returns (.host h) ++
        if s.ports.barredHost.get h = true ∨ activeFlags s.events = 0 then [] else [composeNotification s] := by
  rw [notifyHost_prompted o owed]
  exact PerSource.get_set_self s.ports.returns (.host h) _

/-- M's side of an event's end. -/
theorem notifyMgmt_tells (o q : Bool) (s : State) :
    (notifyMgmt o q s).returns .mgmt = s.returns .mgmt ∨
      ∃ pkt, (notifyMgmt o q s).returns .mgmt = s.returns .mgmt ++ [pkt] ∧ isNotice pkt = true ∧
        ((s.returns .mgmt).countP isNotice = 0 ∨ q = true) := by
  by_cases hq : (q && s.events.noticeOwed) = true
  · obtain ⟨rfl, owed⟩ := Bool.and_eq_true_iff.1 hq
    rw [notifyMgmt_prompted_returns o owed]
    by_cases none : activeFlags s.events = 0
    · exact .inl (by rw [if_pos none, List.append_nil])
    · exact .inr ⟨_, by rw [if_neg none], rfl, .inr rfl⟩
  · rw [Bool.not_eq_true] at hq
    cases o with
    | false => exact .inl (by rw [notifyMgmt_quiet hq])
    | true =>
      by_cases room : s.link .mgmt = .up ∧ (s.returns .mgmt).any isNotice = false
      · rw [notifyMgmt_placed hq room.1 room.2, returns_pushReturn, if_pos rfl]
        exact .inr ⟨_, rfl, rfl, .inl (countP_eq_zero_of_any room.2)⟩
      · exact .inl (by rw [notifyMgmt_owed hq room]; rfl)

/-- The notified host's side of an event's end. -/
theorem notifyHost_tells (h : HostId) (o q : Bool) (s : State) :
    (notifyHost h o q s).returns (.host h) = s.returns (.host h) ∨
      ∃ pkt, (notifyHost h o q s).returns (.host h) = s.returns (.host h) ++ [pkt] ∧ isNotification pkt = true ∧
        ((s.returns (.host h)).countP isNotification = 0 ∨ q = true) := by
  by_cases hq : (q && s.events.notificationOwed) = true
  · obtain ⟨rfl, owed⟩ := Bool.and_eq_true_iff.1 hq
    rw [notifyHost_prompted_returns o owed]
    by_cases none : s.ports.barredHost.get h = true ∨ activeFlags s.events = 0
    · exact .inl (by rw [if_pos none, List.append_nil])
    · exact .inr ⟨_, by rw [if_neg none], rfl, .inr rfl⟩
  · rw [Bool.not_eq_true] at hq
    by_cases quiet : o = false ∨ s.ports.barredHost.get h = true
    · exact .inl (by rw [notifyHost_quiet hq quiet])
    · obtain ⟨occasion, unbarred⟩ := not_or.1 quiet
      rw [Bool.not_eq_false] at occasion
      rw [Bool.not_eq_true] at unbarred
      subst occasion
      by_cases room : s.link (.host h) = .up ∧ (s.returns (.host h)).any isNotification = false
      · rw [notifyHost_placed hq unbarred room.1 room.2, returns_pushReturn, if_pos rfl]
        exact .inr ⟨_, rfl, rfl, .inl (countP_eq_zero_of_any room.2)⟩
      · exact .inl (by rw [notifyHost_owed hq unbarred room]; rfl)

/-- An event's end leaves a return queue as it is, or adds the one packet of the Event Unit that it may hold, where none stands
there or the port is prompted. -/
theorem notify_tells (before : State) (prompt : Option Port) (s : State) (src : Source) :
    (notify before prompt s).returns src = s.returns src ∨
      ∃ pkt, (notify before prompt s).returns src = s.returns src ++ [pkt] ∧ tellsOf src pkt = true ∧
        ((s.returns src).countP (tellsOf src) = 0 ∨ prompt = some src.port) := by
  cases src with
  | mgmt =>
    rw [(notify_mgmt before prompt s).1]
    simpa only [decide_eq_true_eq, tellsOf, Source.port] using notifyMgmt_tells (isOccasion before s) (decide (prompt = some .mgmt)) s
  | host h =>
    by_cases hs : s.events.setting.host = some h
    · rw [(notify_host hs before prompt).1]
      simpa only [decide_eq_true_eq, tellsOf, Source.port] using notifyHost_tells h (isOccasion before s) (decide (prompt = some (.host h))) s
    · exact .inl (notify_otherHost hs before prompt)

theorem Returned.notified {s : State} (hs : Returned s) (before : State) (prompt : Option Port) :
    Returned (notify before prompt s) := by
  have entry := (elsewhere_notify before prompt s).entry
  refine ⟨fun src => ?_, fun src => ?_⟩
  · rcases notify_tells before prompt s src with same | ⟨pkt, added, tells, _⟩
    · exact (hs.replies src).step (.stand same (.of_entry entry src))
    · have none := (tellsOf_kind tells).1
      have queue : ((notify before prompt s).returns src).filterMap replyEntry = (s.returns src).filterMap replyEntry := by
        rw [added, List.filterMap_append, List.filterMap_cons, none]
        exact List.append_nil _
      exact ⟨by rw [queue]; exact (hs.replies src).distinct,
        fun i hi => (hs.replies src).stays (.of_entry entry src) (by rwa [queue] at hi)⟩
  · refine (hs.orders src).same (notify_orders ..) ?_
    rcases notify_tells before prompt s src with same | ⟨pkt, added, tells, _⟩
    · rw [same]
    · have none := (tellsOf_kind tells).2.1
      rw [added, List.countP_append, List.countP_singleton, none]
      rfl

theorem Told.notified {s : State} (hs : Told s) (before : State) {prompt : Option Port}
    (free : ∀ src, prompt = some src.port → (s.returns src).countP (tellsOf src) = 0) : Told (notify before prompt s) := by
  refine ⟨fun src => ?_, fun src => ?_⟩
  · rcases notify_tells before prompt s src with same | ⟨pkt, added, tells, room⟩
    · rw [same]; exact hs.one src
    · have none : (s.returns src).countP (tellsOf src) = 0 := room.elim id (free src)
      rw [added, List.countP_append, List.countP_singleton, none, tells]
      exact Nat.le_refl _
  · rcases notify_tells before prompt s src with same | ⟨pkt, added, tells, _⟩
    · rw [same]; exact hs.noStray src
    · rw [added, List.countP_append, List.countP_singleton, hs.noStray src, (tellsOf_kind tells).2.2]
      rfl

/-- The three invariants of a step: ports that are not UP, return queues and notices. -/
def ReturnsHold (s : State) : Prop := DownEmpty s ∧ Returned s ∧ Told s

theorem ReturnsHold.moves {s t : State} (hs : ReturnsHold s) (h : Moves s t) : ReturnsHold t :=
  ⟨movesKeep_downEmpty.moves h hs.1, (hs.2.1.moves h).1, hs.2.2.falls (hs.2.1.moves h).2⟩

theorem movesKeep_returnsHold : MovesKeep ReturnsHold where
  quiet h hs := hs.moves (.single (.quiet h))
  queue h hs := hs.moves (.single (.queue h))
  flow h hs := hs.moves (.single (.flow h))
  decision h hs := hs.moves (.single (.decision h))
  drains h hs := hs.moves (.single (.drains h))

theorem returnsHold_powerOnValues (ph : Phase) (cause : ResetCause) (s : State) : ReturnsHold (powerOnValues ph cause s) := by
  have values := powerOnValues_hold ph cause s
  have returns : ∀ src, (powerOnValues ph cause s).returns src = [] := fun src => (values.sources src).2.1
  have orders : ∀ src, (powerOnValues ph cause s).orders src = [] := fun src => (values.sources src).1
  refine ⟨downEmpty_powerOnValues cause s, ⟨fun src => ⟨?_, fun i hi => ?_⟩, fun src => ⟨?_, fun e he => ?_⟩⟩, fun src => ?_, fun src => ?_⟩
  · rw [returns]; exact List.nodup_nil
  · rw [returns] at hi; cases hi
  · rw [returns]; exact Nat.zero_le _
  · rw [orders] at he; cases he
  · rw [returns]; exact Nat.zero_le _
  · rw [returns]; rfl

/-- Before a port is UP its return queue is empty. -/
theorem ReturnsHold.opened {s : State} (hs : ReturnsHold s) {p : Port} (running : s.ctl.phase = .running)
    (answering : s.link p = .answering) : ReturnsHold (notify s (some p) (startSent p s)) := by
  have moves := moves_of_startSent running answering
  have down : s.link p ≠ .up := by rw [answering]; decide
  obtain ⟨empty, returned, told⟩ := hs.moves moves
  refine ⟨empty.notify s fun k hk => ?_, returned.notified s _, told.notified s fun src hp => ?_⟩
  · cases hk
    rw [startSent_link, if_pos rfl]
  · have none : (s.returns src).countP (tellsOf src) = 0 := by
      rw [(hs.1.source src (Option.some.inj hp ▸ down)).returns]
      rfl
    exact Nat.le_zero.1 (((hs.2.1.moves moves).2.tells src).trans (Nat.le_of_eq none))

/-- A notice that leaves was the only one in its queue. -/
theorem Told.after_notice {s : State} (hs : Told s) {src : Source} {pkt : ReturnPacket} {rest : List ReturnPacket}
    (queue : s.returns src = pkt :: rest) (prompts : promptOf src pkt ≠ none) : rest.countP (tellsOf src) = 0 := by
  have one := hs.one src
  have noStray := hs.noStray src
  rw [queue, List.countP_cons] at one noStray
  have kind : tellsOf src pkt = true ∨ strayOf src pkt = true := by
    unfold promptOf at prompts
    cases src <;> cases pkt <;> simp_all [tellsOf, strayOf, isNotice, isNotification]
  rcases kind with tells | stray
  · rw [if_pos tells] at one
    omega
  · rw [if_pos stray] at noStray
    omega

theorem ReturnsHold.sent {s : State} (hs : ReturnsHold s) {src : Source} {pkt : ReturnPacket} {rest : List ReturnPacket}
    (queue : s.returns src = pkt :: rest) (up : s.link src.port = .up) :
    ReturnsHold (notify s (promptOf src pkt) (offerFreed s (sendHead src pkt s))) := by
  obtain ⟨empty, returned, told⟩ := hs.moves (moves_of_sendHead queue up)
  refine ⟨empty.notify s fun k hk => ?_, returned.notified s _, told.notified s fun k hk => ?_⟩
  · rw [promptOf_eq_some hk, offerFreed_link]
    unfold State.link
    rw [sendHead_link]
    exact up
  · obtain rfl : k = src := port_inj (promptOf_eq_some hk)
    have sent : QueueMove s (sendHead k pkt s) := .sent k pkt rest s queue up
    have none : ((sendHead k pkt s).returns k).countP (tellsOf k) = 0 := by
      rw [sendHead_returns, if_pos rfl, queue]
      exact hs.2.2.after_notice queue (by rw [hk]; simp)
    have after := (hs.moves sent.moves).2.1
    exact Nat.le_zero.1 (((after.moves (moves_of_offerFreed s _)).2.tells k).trans (Nat.le_of_eq none))

/-- Settles O17: every packet enters a return queue with the entry or order that it answers, and a notice only where none stands. -/
theorem returnsMatchKept : Obligations.ReturnsMatchKept := by
  unfold Obligations.ReturnsMatchKept
  intro s t empty hs h
  rw [downPortsEmpty_iff] at empty
  rw [returnsMatch_iff] at hs ⊢
  have hold : ReturnsHold t := step_keeps movesKeep_returnsHold
    (fun before u hu => ⟨hu.1.notify before (by simp), hu.2.1.notified before .none, hu.2.2.notified before (by simp)⟩)
    (fun u p running answering hu => hu.opened running answering) (fun u src pkt rest queue up hu => hu.sent queue up)
    (fun ph cause u _ => returnsHold_powerOnValues ph cause u)
    (fun u rest hu =>
      have same : DownSame u { u with pending := rest } := ⟨rfl, fun _ => rfl, rfl, rfl, rfl, rfl⟩
      ⟨same.downEmpty rfl hu.1, ⟨fun src => (hu.2.1.replies src).step (.same (fun _ => by rfl) (by rfl) src),
        fun src => (hu.2.1.orders src).keep rfl rfl⟩, hu.2.2.falls ⟨fun _ => Nat.le_refl _, fun _ => Nat.le_refl _⟩⟩)
    ⟨empty, hs⟩ h
  exact hold.2

end Sys2Proof.Machine
end

section
/-! PROOFS. The reset state. -/

namespace Sys2Proof.Machine

/-- State.reset is the state that a power-on leaves, start-up begun. -/
theorem reset_eq : State.reset = powerOnValues .startUp ⟨true, false, false⟩ State.reset := rfl

/-- Settles O3: the reset state is the one of a power-on, of which each invariant has been shown. -/
theorem resetValuesAndInvariants : Obligations.ResetValuesAndInvariants := by
  unfold Obligations.ResetValuesAndInvariants
  have hold : ∀ {P : State → Prop}, (∀ ph cause s, P (powerOnValues ph cause s)) → P State.reset := fun h => by
    rw [reset_eq]
    exact h ..
  have returns : Returned State.reset ∧ Told State.reset := (hold returnsHold_powerOnValues).2
  exact ⟨hold powerOnValues_hold, rfl, rfl, rfl, rfl, hold poolBalanced_powerOnValues, hold windowsFit_powerOnValues,
    hold rangesDisjoint_powerOnValues, hold lockedLive_powerOnValues, hold countsMatch_powerOnValues,
    hold drainsFollow_powerOnValues, hold takenFollows_powerOnValues, hold drainingHasTraffic_powerOnValues,
    hold tagsDistinct_powerOnValues, hold egressFollows_powerOnValues, hold queuesFit_powerOnValues,
    (downPortsEmpty_iff _).2 (hold fun _ => downEmpty_powerOnValues), (creditsMatch_iff _).2 (hold balanced_powerOnValues),
    (returnsMatch_iff _).2 returns, hold noteFollows_powerOnValues⟩

end Sys2Proof.Machine
end

section
/-! PROOFS. Symbols and links. -/

namespace Sys2Proof.Machine

/-! ### What a symbol does, by its test (R162, R173, R178) -/

theorem screenSymbol_stopped {s : State} (h : s.ctl.phase ≠ .running) (p : Port) (code : Byte) (sym : Symbol)
    (act : State → State) : screenSymbol p code sym act s = s := by
  unfold screenSymbol
  rw [if_neg fun running => h ((isRunning_iff s).1 running)]

theorem screenSymbol_whole {s : State} (running : s.ctl.phase = .running) {code : Byte} {sym : Symbol}
    (whole : symbolCheckMatches code sym = true) (p : Port) (act : State → State) :
    screenSymbol p code sym act s = notify s none (act s) := by
  unfold screenSymbol
  rw [if_pos ((isRunning_iff s).2 running), if_pos whole]

theorem screenSymbol_damaged {s : State} (running : s.ctl.phase = .running) {code : Byte} {sym : Symbol}
    (damaged : symbolCheckMatches code sym = false) (p : Port) (act : State → State) :
    screenSymbol p code sym act s = notify s none (setProtocol p s) := by
  unfold screenSymbol
  rw [if_pos ((isRunning_iff s).2 running), damaged, if_neg Bool.false_ne_true]

theorem packetArrives_stopped {s : State} (h : s.ctl.phase ≠ .running) (p : Port) (k : Byte) (f : Frame) :
    packetArrives p k f s = s := by
  unfold packetArrives
  rw [if_neg fun running => h ((isRunning_iff s).1 running)]

theorem symbolArrives_stopped {s : State} (h : s.ctl.phase ≠ .running) (p : Port) (bytes : List Byte) :
    symbolArrives p bytes s = s := by
  unfold symbolArrives
  split
  · exact screenSymbol_stopped h ..
  · rw [if_neg fun running => h ((isRunning_iff s).1 running)]

/-- A packet's arrival, whatever its command. -/
theorem exec_arrival {p : Port} {k : Byte} {f : Frame} {c : Instr} (h : ArrivesAs p k f c) (s : State) :
    exec c s = .next (packetArrives p k f s) := by
  rcases h with rfl | ⟨h, rfl, ⟨rfl, rfl⟩ | ⟨rfl, rfl⟩⟩ | ⟨src, rfl, rfl, rfl⟩ | ⟨g, rfl, rfl, rfl⟩ <;> rfl

theorem exec_lossOfSignal {s : State} (running : s.ctl.phase = .running) (p : Port) :
    exec (.lossOfSignal p) s = .next (notify s none (stopArrives p s)) := by
  have answer : exec (.lossOfSignal p) s = execLossOfSignal p s := rfl
  rw [answer, execLossOfSignal, if_pos ((isRunning_iff s).2 running)]

theorem exec_lossOfSignal_stopped {s : State} (h : s.ctl.phase ≠ .running) (p : Port) : exec (.lossOfSignal p) s = .next s := by
  have answer : exec (.lossOfSignal p) s = execLossOfSignal p s := rfl
  rw [answer, execLossOfSignal, if_neg fun running => h ((isRunning_iff s).1 running)]

theorem exec_start (p : Port) (sym : Symbol) (s : State) :
    exec (.start p sym) s = .next (screenSymbol p symStart sym (startArrives p sym) s) := rfl

theorem exec_stop (p : Port) (sym : Symbol) (s : State) :
    exec (.stop p sym) s = .next (screenSymbol p symStop sym (stopArrives p) s) := rfl

theorem exec_restart (p : Port) (sym : Symbol) (s : State) :
    exec (.restart p sym) s = .next (screenSymbol p symRestart sym (restartArrives p) s) := rfl

theorem exec_credit (p : Port) (sym : Symbol) (s : State) :
    exec (.credit p sym) s = .next (screenSymbol p symCredit sym (creditArrives p sym) s) := rfl

theorem exec_malformedSymbol (p : Port) (bytes : List Byte) (s : State) :
    exec (.malformedSymbol p bytes) s = .next (symbolArrives p bytes s) := rfl

theorem stopArrives_down {s : State} {p : Port} (down : s.link p = .down) : stopArrives p s = s := by
  unfold stopArrives
  rw [down]

theorem restartArrives_down {s : State} {p : Port} (down : s.link p = .down) : restartArrives p s = s := by
  unfold restartArrives
  rw [down]

theorem creditArrives_some {s : State} {p : Port} {sym : Symbol} {cls : CreditClass} {n : Nat}
    (h : symbolCredit sym = some (cls, n)) :
    creditArrives p sym s =
      if s.link p = .down then s
      else if cls ≠ sendingClass p ∨ s.ports.held.get p + n > Config.heldMax then setProtocol p s
      else s.setHeld p (s.ports.held.get p + n) := by
  unfold creditArrives
  rw [h]

/-- Settles O23: each arrival is screened by the phase first, and by the link's state next. -/
theorem ignoredWithoutFlag : Obligations.IgnoredWithoutFlag := by
  unfold Obligations.IgnoredWithoutFlag
  intro s
  refine ⟨fun stopped => ⟨fun p sym => ?_, exec_lossOfSignal_stopped stopped, fun p bytes => ?_, fun p k f c arrives => ?_⟩,
    fun p running down => ⟨?_, fun sym whole => ?_, fun sym whole => ?_, fun sym x whole credit => ?_⟩⟩
  · rw [exec_start, exec_stop, exec_restart, exec_credit, screenSymbol_stopped stopped, screenSymbol_stopped stopped,
      screenSymbol_stopped stopped, screenSymbol_stopped stopped]
    exact ⟨rfl, rfl, rfl, rfl⟩
  · rw [exec_malformedSymbol, symbolArrives_stopped stopped]
  · rw [exec_arrival arrives, packetArrives_stopped stopped]
  · rw [exec_lossOfSignal running, stopArrives_down down, notify_same s s rfl]
  · rw [exec_stop, screenSymbol_whole running whole, stopArrives_down down, notify_same s s rfl]
  · rw [exec_restart, screenSymbol_whole running whole, restartArrives_down down, notify_same s s rfl]
  · rw [exec_credit, screenSymbol_whole running whole, creditArrives_some credit, if_pos down, notify_same s s rfl]

/-! ### START and CREDIT -/

theorem startArgs_grants (q o b : Nat) (check : BitVec 16) :
    symbolGrant ⟨startArgs q o b, check⟩ .request = q % 4096 ∧ symbolGrant ⟨startArgs q o b, check⟩ .order = o % 4096 ∧
      symbolGrant ⟨startArgs q o b, check⟩ .back = b % 4096 := by
  have request : (startArgs q o b).extractLsb' 28 12 = BitVec.ofNat 12 q := by
    unfold startArgs
    ext i hi
    rw [BitVec.getElem_extractLsb', BitVec.getLsbD_append, BitVec.getLsbD_append, BitVec.getLsbD_append, if_neg (by omega),
      if_neg (by omega), if_neg (by omega), ← BitVec.getLsbD_eq_getElem]
    congr 1
    omega
  have order : (startArgs q o b).extractLsb' 16 12 = BitVec.ofNat 12 o := by
    unfold startArgs
    ext i hi
    rw [BitVec.getElem_extractLsb', BitVec.getLsbD_append, BitVec.getLsbD_append, BitVec.getLsbD_append, if_neg (by omega),
      if_neg (by omega), if_pos (by omega), ← BitVec.getLsbD_eq_getElem]
    congr 1
    omega
  have back : (startArgs q o b).extractLsb' 4 12 = BitVec.ofNat 12 b := by
    unfold startArgs
    ext i hi
    rw [BitVec.getElem_extractLsb', BitVec.getLsbD_append, BitVec.getLsbD_append, if_neg (by omega), if_pos (by omega),
      ← BitVec.getLsbD_eq_getElem]
    congr 1
    omega
  unfold symbolGrant
  dsimp only
  rw [request, order, back, BitVec.toNat_ofNat, BitVec.toNat_ofNat, BitVec.toNat_ofNat]
  exact ⟨rfl, rfl, rfl⟩

theorem creditArgs_class (cls : CreditClass) (n : Nat) : (creditArgs cls n).extractLsb' 32 8 = classCode cls := by
  unfold creditArgs
  ext i hi
  rw [BitVec.getElem_extractLsb', BitVec.getLsbD_append, BitVec.getLsbD_append, if_neg (by omega), if_neg (by omega),
    ← BitVec.getLsbD_eq_getElem]
  congr 1
  omega

theorem creditArgs_count (cls : CreditClass) (n : Nat) : (creditArgs cls n).extractLsb' 24 8 = BitVec.ofNat 8 n := by
  unfold creditArgs
  ext i hi
  rw [BitVec.getElem_extractLsb', BitVec.getLsbD_append, BitVec.getLsbD_append, if_neg (by omega), if_pos (by omega),
    ← BitVec.getLsbD_eq_getElem]
  congr 1
  omega

/-- Settles O24: a whole START makes the port answering, and its grants are read back from their twelve bits each. -/
theorem startIsTaken : Obligations.StartIsTaken := by
  unfold Obligations.StartIsTaken
  refine ⟨fun s p sym running whole => ⟨fun waits => ?_, fun answering => ?_⟩, fun q o b check hq ho hb => ?_⟩
  · have enters : startArrives p sym s = enterAnswering p sym s := by
      unfold startArrives
      rcases waits with down | awaiting
      · rw [down]
      · rw [awaiting]
    rw [exec_start, screenSymbol_whole running whole, enters, notify_same s (enterAnswering p sym s) rfl]
    rfl
  · have stays : startArrives p sym s = s := by
      unfold startArrives
      rw [answering]
    rw [exec_start, screenSymbol_whole running whole, stays, notify_same s s rfl]
  · obtain ⟨request, order, back⟩ := startArgs_grants q o b check
    exact ⟨by omega, by omega, by omega⟩

/-- Settles O26: the class and the sum decide between the count and the flag. -/
theorem creditIsTaken : Obligations.CreditIsTaken := by
  unfold Obligations.CreditIsTaken
  refine ⟨fun s p sym cls n running notDown whole credit => ?_, fun cls n check low high => ?_⟩
  · rw [exec_credit, screenSymbol_whole running whole, creditArrives_some credit, if_neg notDown]
    refine ⟨fun same fits => ?_, fun unfit => ?_⟩
    · have accepts : ¬(cls ≠ sendingClass p ∨ s.ports.held.get p + n > Config.heldMax) :=
        not_or.2 ⟨fun other => other same, Nat.not_lt.2 fits⟩
      rw [if_neg accepts, notify_same s (s.setHeld p (s.ports.held.get p + n)) rfl]
      rfl
    · rw [if_pos (show cls ≠ sendingClass p ∨ s.ports.held.get p + n > Config.heldMax from unfit)]
      exact ⟨_, rfl, flagOnly_setFlag .protocol p s⟩
  · have count : (BitVec.ofNat 8 n).toNat = n := by
      rw [BitVec.toNat_ofNat]
      omega
    unfold symbolCredit
    dsimp only
    rw [creditArgs_count, creditArgs_class, count, if_pos ⟨low, high⟩]
    cases cls <;> rfl

/-- A symbol of another size than eight bytes, or of another code than the four, sets PROTOCOL whatever its check value. -/
theorem symbolArrives_malformed {s : State} (running : s.ctl.phase = .running) {p : Port} {bytes : List Byte}
    (bad : isMalformedSymbol bytes = true) : symbolArrives p bytes s = notify s none (setProtocol p s) := by
  unfold symbolArrives
  split
  · next c a1 a2 a3 a4 a5 k1 k2 =>
    have other : c ≠ symStart ∧ c ≠ symStop ∧ c ≠ symRestart ∧ c ≠ symCredit := by simpa [isMalformedSymbol] using bad
    obtain ⟨notStart, notStop, notRestart, notCredit⟩ := other
    by_cases whole : symbolCheckMatches c ⟨a1 ++ a2 ++ a3 ++ a4 ++ a5, k1 ++ k2⟩ = true
    · dsimp only
      rw [screenSymbol_whole running whole, if_neg notStart, if_neg notStop, if_neg notRestart, if_neg notCredit]
    · dsimp only
      rw [screenSymbol_damaged running (by simpa using whole)]
  · rw [if_pos ((isRunning_iff s).2 running)]

/-- Settles O27: each test that a symbol fails sets PROTOCOL alone. -/
theorem badSymbolsIgnored : Obligations.BadSymbolsIgnored := by
  unfold Obligations.BadSymbolsIgnored
  intro s p running
  have protocol : FlagOnly .protocol p s (notify s none (setProtocol p s)) := flagOnly_setFlag .protocol p s
  have damaged : ∀ code sym act, symbolCheckMatches code sym = false →
      FlagOnly .protocol p s (screenSymbol p code sym act s) := fun code sym act bad => by
    rw [screenSymbol_damaged running bad]
    exact protocol
  refine ⟨fun bytes bad => ⟨symbolArrives p bytes s, rfl, ?_⟩, fun sym bad => ⟨_, rfl, damaged _ _ _ bad⟩,
    fun sym bad => ⟨_, rfl, damaged _ _ _ bad⟩, fun sym bad => ⟨_, rfl, damaged _ _ _ bad⟩, fun sym bad => ⟨_, rfl, ?_⟩⟩
  · rw [symbolArrives_malformed running bad]
    exact protocol
  · rcases bad with bad | none
    · exact damaged _ _ _ bad
    · by_cases whole : symbolCheckMatches symCredit sym = true
      · rw [screenSymbol_whole running whole, creditArrives, none]
        exact protocol
      · exact damaged _ _ _ (by simpa using whole)

/-! ### Session ends -/

/-- Every way a session ends is the session end of the port, with the link state and the held count that the event gives. -/
theorem exec_endsSession {s : State} {p : Port} {c : Instr} {l : LinkState} {n : Nat} (running : s.ctl.phase = .running)
    (h : EndsSession s p c l n) : exec c s = .next (notify s none (endSession p l n s)) := by
  obtain ⟨notDown, ends⟩ := h
  have stop : stopArrives p s = endSession p .down 0 s := by
    unfold stopArrives
    split
    · next down => exact absurd down notDown
    · rfl
  have restart : restartArrives p s = endSession p .awaitingStart 0 s := by
    unfold restartArrives
    split
    · next down => exact absurd down notDown
    · rfl
  rcases ends with ⟨rfl, rfl, rfl | ⟨sym, whole, rfl⟩⟩ | ⟨rfl, rfl, sym, whole, rfl⟩ | ⟨rfl, up, sym, whole, rfl, rfl⟩
  · rw [exec_lossOfSignal running, stop]
  · rw [exec_stop, screenSymbol_whole running whole, stop]
  · rw [exec_restart, screenSymbol_whole running whole, restart]
  · have start : startArrives p sym s = endSession p .answering (symbolGrant sym (sendingClass p)) s := by
      unfold startArrives
      rw [up]
    rw [exec_start, screenSymbol_whole running whole, start]

/-- Settles O30: M's session end sets no flag, so that no notice follows it. -/
theorem managementSessionEnds : Obligations.ManagementSessionEnds := by
  unfold Obligations.ManagementSessionEnds
  intro s c l n running ends
  rw [exec_endsSession running ends]
  have ended : endSession .mgmt l n s = endMgmtSession n (s.setLink .mgmt l) := rfl
  have quiet : isOccasion s (endMgmtSession n (s.setLink .mgmt l)) = false := by
    rw [endMgmtSession_eq]
    exact not_isOccasion _ _ (by rfl) (by rfl)
  rw [ended, notify_quiet _ _ quiet, endMgmtSession_eq]

end Sys2Proof.Machine
end

section
/-! PROOFS. The part's own START. -/

namespace Sys2Proof.Machine

/-! ### Fields that the end of an event leaves -/

section notifyFields

variable (before : State) (prompt : Option Port) (s : State)

theorem notify_ports_link : (notify before prompt s).ports.link = s.ports.link := by rw [notify_ports]

theorem notify_grantedRequest : (notify before prompt s).ports.grantedRequest = s.ports.grantedRequest := by rw [notify_ports]

theorem notify_grantedOrder : (notify before prompt s).ports.grantedOrder = s.ports.grantedOrder := by rw [notify_ports]

end notifyFields

/-- An owed NOTICE is acted on at an event that prompts M's port. -/
theorem notify_prompts_mgmt (before : State) {s : State} (owed : s.events.noticeOwed = true) :
    (notify before (some .mgmt) s).events.noticeOwed = false ∧
      (notify before (some .mgmt) s).returns .mgmt =
        s.returns .mgmt ++ if activeFlags s.events = 0 then [] else [.notice (activeFlags s.events)] := by
  obtain ⟨returns, mark⟩ := notify_mgmt before (some .mgmt) s
  rw [returns, mark, decide_eq_true rfl, notifyMgmt_prompted_returns _ owed, notifyMgmt_prompted _ owed]
  exact ⟨rfl, rfl⟩

/-- An owed notification is acted on at an event that prompts the notified host's port. -/
theorem notify_prompts_host (before : State) {s : State} {h : HostId} (setting : s.events.setting.host = some h)
    (owed : s.events.notificationOwed = true) :
    (notify before (some (.host h)) s).events.notificationOwed = false ∧
      (notify before (some (.host h)) s).returns (.host h) =
        s.returns (.host h) ++
          if s.ports.barredHost.get h = true ∨ activeFlags s.events = 0 then [] else [composeNotification s] := by
  obtain ⟨returns, mark⟩ := notify_host setting before (some (.host h))
  rw [returns, mark, decide_eq_true rfl, notifyHost_prompted_returns _ owed, notifyHost_prompted _ owed]
  exact ⟨rfl, rfl⟩

theorem execPartStartSent_answering {s : State} {p : Port} (running : s.ctl.phase = .running) (answering : s.link p = .answering) :
    exec (.partStartSent p) s = .next (notify s (some p) (startSent p s)) := by
  have answer : exec (.partStartSent p) s = execPartStartSent p s := rfl
  rw [answer, execPartStartSent, if_pos ⟨(isRunning_iff s).2 running, answering⟩]

/-- The port's grants, its START and its flag are all that the part's own START changes. -/
theorem startSent_frame (p : Port) (s : State) :
    startSent p s = { s with
      ports := { s.ports with
        link := s.ports.link.set p .up, grantedRequest := (startSent p s).ports.grantedRequest
        grantedOrder := (startSent p s).ports.grantedOrder }
      events := raiseFlag .linkUp (portMask p) s.events
      sent := (startSent p s).sent } := by
  cases p <;> rfl

theorem startSent_events (p : Port) (s : State) : (startSent p s).events = raiseFlag .linkUp (portMask p) s.events := by
  rw [startSent_frame]

theorem startSent_returns (p : Port) (s : State) : (startSent p s).ports.returns = s.ports.returns := by rw [startSent_frame]

/-- Settles O25: the port's grants go by its kind, and what is owed to it is acted on as the event ends. -/
theorem partStartMakesUp : Obligations.PartStartMakesUp := by
  unfold Obligations.PartStartMakesUp
  intro s p running answering
  have events := startSent_events p s
  have returns : ∀ src, (startSent p s).returns src = s.returns src := fun src => by
    unfold State.returns
    rw [startSent_returns]
  have active := notify_activeFlags s (some p) (startSent p s)
  refine ⟨notify s (some p) (startSent p s), execPartStartSent_answering running answering,
    notify_flagRaised _ _ _ (flagRaised_raise _ _ _ _ events), (notify_noticesOnly ..).congr_left (startSent_returns p s).symm,
    ?_, ?_, ?_, ?_, ?_, ?_, ?_⟩
  · rw [notify_ports_link, startSent_frame]
  · rintro h rfl
    rw [notify_sent, notify_grantedRequest, notify_grantedOrder]
    exact ⟨rfl, rfl, rfl⟩
  · rintro g rfl
    rw [notify_sent, notify_grantedRequest, notify_grantedOrder]
    exact ⟨rfl, rfl, rfl⟩
  · rintro rfl
    rw [notify_sent, notify_grantedRequest, notify_grantedOrder]
    exact ⟨rfl, rfl, rfl⟩
  · rintro rfl owed
    obtain ⟨mark, queue⟩ := notify_prompts_mgmt s (s := startSent .mgmt s) (by rw [events]; exact owed)
    refine ⟨mark, ?_⟩
    rw [queue, returns, ← active]
    rfl
  · rintro h rfl setting owed
    obtain ⟨mark, queue⟩ := notify_prompts_host s (s := startSent (.host h) s) (by rw [events]; exact setting)
      (by rw [events]; exact owed)
    refine ⟨mark, ?_⟩
    rw [queue, returns, composeNotification, ← active, events]
    rfl
  · rw [notify_frame, startSent_frame]

end Sys2Proof.Machine
end

section
/-! PROOFS. Arriving packets. -/

namespace Sys2Proof.Machine

/-! ### The tests of an arrival (R148, R168) -/

theorem packetArrives_closed {s : State} {p : Port} (running : s.ctl.phase = .running) (notUp : s.link p ≠ .up) (k : Byte)
    (f : Frame) : packetArrives p k f s = notify s none (setProtocol p s) := by
  have down : (!isUp p s) = true := by simpa [isUp] using notUp
  unfold packetArrives
  rw [if_pos ((isRunning_iff s).2 running), if_pos down]

theorem packetArrives_passes {s : State} {p : Port} (running : s.ctl.phase = .running) (up : s.link p = .up) {k : Byte}
    {f : Frame} (passes : passesTests p k f = true) : packetArrives p k f s = notify s none (handOn p k f s) := by
  have open_ : (!isUp p s) = false := by simp [isUp, up]
  unfold packetArrives
  rw [if_pos ((isRunning_iff s).2 running), open_, if_neg Bool.false_ne_true, if_pos passes]

theorem packetArrives_fails {s : State} {p : Port} (running : s.ctl.phase = .running) (up : s.link p = .up) {k : Byte}
    {f : Frame} (fails : passesTests p k f = false) : packetArrives p k f s = notify s none (discardPacket p k s) := by
  have open_ : (!isUp p s) = false := by simp [isUp, up]
  unfold packetArrives
  rw [if_pos ((isRunning_iff s).2 running), open_, if_neg Bool.false_ne_true, fails, if_neg Bool.false_ne_true]

theorem passesTests_post {h : HostId} {f : Frame} (whole : checkMatches kindPost f = true) (low : 1 ≤ f.length.toNat)
    (high : f.length.toNat ≤ 256) (data : f.payload.length = f.length.toNat) : passesTests (.host h) kindPost f = true := by
  have takes : takesKind (.host h) kindPost = true := rfl
  have form : formMatches kindPost f = true := by simp [formMatches, low, high, data]
  rw [passesTests, whole, takes, form]
  rfl

theorem passesTests_fetch {h : HostId} {f : Frame} (whole : checkMatches kindFetch f = true) (low : 1 ≤ f.length.toNat)
    (high : f.length.toNat ≤ 256) (data : f.payload = []) : passesTests (.host h) kindFetch f = true := by
  have takes : takesKind (.host h) kindFetch = true := rfl
  have form : formMatches kindFetch f = true := by simp [formMatches, kindFetch, kindPost, low, high, data]
  rw [passesTests, whole, takes, form]
  rfl

theorem passesTests_order {src : Source} {f : Frame} (whole : checkMatches kindOrder f = true) (length : f.length = 0)
    (data : f.payload.length = 64) : passesTests src.port kindOrder f = true := by
  have takes : takesKind src.port kindOrder = true := by cases src <;> rfl
  have form : formMatches kindOrder f = true := by simp [formMatches, kindOrder, kindFetch, kindPost, length, data]
  rw [passesTests, whole, takes, form]
  rfl

/-! ### Requests and orders that enter their queues (R29, R73, R74) -/

theorem tag_low_byte (tag : BitVec 16) : tag.setWidth 8 = tag.extractLsb' 0 8 := by
  ext i hi
  simp [BitVec.getElem_extractLsb']

theorem handOn_order (src : Source) (f : Frame) (s : State) :
    handOn src.port kindOrder f s = enterOrders src (orderEntryOf f) s := by
  cases src <;> rfl

theorem handOn_request {k : Byte} (hk : k ≠ kindOrder) (h : HostId) (f : Frame) (s : State) :
    handOn (.host h) k f s = enterIngress h (requestOf k f) s := if_neg hk

theorem enterIngress_room {h : HostId} {s : State} (room : (s.ingress h).length < 8) (r : Request) :
    enterIngress h r s = (spendRequestCredit h s).setIngress h (s.ingress h ++ [r]) := if_neg (Nat.not_le.2 room)

theorem sequenceInUse_iff (src : Source) (q : Byte) (s : State) :
    sequenceInUse src q s = true ↔ ∃ e ∈ s.orders src, e.silent = false ∧ e.sequence = q := by
  unfold sequenceInUse
  simp [List.any_eq_true]

theorem ordersFull_iff (src : Source) (s : State) :
    ordersFull src s = true ↔ Config.orderPlaces src ≤ placesUsed (s.orders src) := by
  unfold ordersFull
  exact decide_eq_true_iff

theorem enterOrders_full {src : Source} {s : State} (full : Config.orderPlaces src ≤ placesUsed (s.orders src)) (e : OrderEntry) :
    enterOrders src e s = setProtocol src.port s := if_pos ((ordersFull_iff src s).2 full)

theorem enterOrders_repeated {src : Source} {s : State} {e : OrderEntry}
    (room : placesUsed (s.orders src) < Config.orderPlaces src)
    (used : ∃ x ∈ s.orders src, x.silent = false ∧ x.sequence = e.sequence) :
    enterOrders src e s = setProtocol src.port (returnOrderCredit src (spendOrderCredit src s)) := by
  unfold enterOrders
  rw [if_neg fun full => Nat.not_le.2 room ((ordersFull_iff src s).1 full), if_pos ((sequenceInUse_iff ..).2 used)]

theorem enterOrders_fresh {src : Source} {s : State} {e : OrderEntry}
    (room : placesUsed (s.orders src) < Config.orderPlaces src)
    (fresh : ∀ x ∈ s.orders src, x.silent = false → x.sequence ≠ e.sequence) :
    enterOrders src e s = (spendOrderCredit src s).setOrders src (s.orders src ++ [e]) := by
  unfold enterOrders
  rw [if_neg fun full => Nat.not_le.2 room ((ordersFull_iff src s).1 full), if_neg]
  intro used
  obtain ⟨x, hx, loud, sequence⟩ := (sequenceInUse_iff ..).1 used
  exact fresh x hx loud sequence

/-- Settles O31: a POST or FETCH that passes the tests finds room in its queue. -/
theorem requestEntersIngress : Obligations.RequestEntersIngress := by
  unfold Obligations.RequestEntersIngress
  intro s h f running up room low high
  refine ⟨fun whole data => ?_, fun whole data => ?_⟩
  · have arrives : ArrivesAs (.host h) kindPost f (.post h f) := .inr (.inl ⟨h, rfl, .inl ⟨rfl, rfl⟩⟩)
    rw [exec_arrival arrives, packetArrives_passes running up (passesTests_post whole low high data),
      handOn_request (by decide), enterIngress_room room, notify_same _ _ (by rfl)]
    rfl
  · have arrives : ArrivesAs (.host h) kindFetch f (.fetch h f) := .inr (.inl ⟨h, rfl, .inr ⟨rfl, rfl⟩⟩)
    have request : requestOf kindFetch f = .fetch (f.tag.extractLsb' 0 8) f.address f.length.toNat := by
      rw [← tag_low_byte]
      rfl
    rw [exec_arrival arrives, packetArrives_passes running up (passesTests_fetch whole low high data),
      handOn_request (by decide), enterIngress_room room, notify_same _ _ (by rfl), request]
    rfl

theorem orderEntryOf_eq (f : Frame) :
    orderEntryOf f = ⟨f.tag.extractLsb' 0 8, f.orderCode, f.payload, .queued, false⟩ := by
  unfold orderEntryOf
  rw [tag_low_byte]

/-- Settles O32: the sequence number decides whether an ORDER stays in the place that it finds. -/
theorem orderEntersQueue : Obligations.OrderEntersQueue := by
  unfold Obligations.OrderEntersQueue
  intro s src f running up room whole length data
  have arrives : ArrivesAs src.port kindOrder f (.order src f) := .inr (.inr (.inl ⟨src, rfl, rfl, rfl⟩))
  rw [exec_arrival arrives, packetArrives_passes running up (passesTests_order whole length data), handOn_order, orderEntryOf_eq]
  refine ⟨fun fresh => ?_, fun used => ⟨_, rfl, ?_⟩⟩
  · rw [enterOrders_fresh room fresh, notify_same _ _ (by rfl)]
    rfl
  · rw [enterOrders_repeated room used]
    refine ⟨notify_flagRaised _ _ _ (flagRaised_raise _ _ _ _ rfl), (notify_noticesOnly ..).congr_left rfl, ?_⟩
    have grants : (s.ports.grantedOrder.set src (s.ports.grantedOrder.get src - 1)).set src
        ((s.ports.grantedOrder.set src (s.ports.grantedOrder.get src - 1)).get src + 1) =
        s.ports.grantedOrder.set src (s.ports.grantedOrder.get src - 1 + 1) := by
      rw [PerSource.get_set_self, PerSource.set_set]
    rw [notify_frame, ← grants]
    rfl

/-! ### Packets that are discarded (R168) -/

theorem returnRequestCredits_spent {h : HostId} {s : State} (granted : s.ports.grantedRequest.get h ≠ 0) :
    returnRequestCredits h 1 (spendRequestCredit h s) = { s with sent := s.sent ++ [(.host h, .credit .request 1)] } := by
  have grants : (s.ports.grantedRequest.set h (s.ports.grantedRequest.get h - 1)).set h
      ((s.ports.grantedRequest.set h (s.ports.grantedRequest.get h - 1)).get h + 1) = s.ports.grantedRequest := by
    rw [PerHost.get_set_self, PerHost.set_set, Nat.sub_add_cancel (Nat.pos_of_ne_zero granted), PerHost.set_get]
  conv_rhs => rw [show s = { s with ports := { s.ports with grantedRequest := s.ports.grantedRequest } } from rfl, ← grants]
  rfl

theorem returnOrderCredit_spent {src : Source} {s : State} (granted : s.ports.grantedOrder.get src ≠ 0) :
    returnOrderCredit src (spendOrderCredit src s) = { s with sent := s.sent ++ [(src.port, .credit .order 1)] } := by
  have grants : (s.ports.grantedOrder.set src (s.ports.grantedOrder.get src - 1)).set src
      ((s.ports.grantedOrder.set src (s.ports.grantedOrder.get src - 1)).get src + 1) = s.ports.grantedOrder := by
    rw [PerSource.get_set_self, PerSource.set_set, Nat.sub_add_cancel (Nat.pos_of_ne_zero granted), PerSource.set_get]
  conv_rhs => rw [show s = { s with ports := { s.ports with grantedOrder := s.ports.grantedOrder } } from rfl, ← grants]
  rfl

/-- The CREDIT that goes back for a discarded packet, if one does. -/
def refundUnits (p : Port) : Option CreditClass → List (Port × WireUnit)
  | some cls => [(p, .credit cls 1)]
  | none => []

theorem sent_append_nil (s : State) : { s with sent := s.sent ++ [] } = s := by rw [List.append_nil]

theorem refund_order_eq (src : Source) (k : Byte) (s : State) :
    (if k = kindOrder ∧ s.ports.grantedOrder.get src ≠ 0 then returnOrderCredit src (spendOrderCredit src s) else s) =
      { s with
        sent := s.sent ++
          refundUnits src.port (if k = kindOrder then if s.ports.grantedOrder.get src = 0 then none else some .order else none) } := by
  by_cases order : k = kindOrder
  · by_cases none : s.ports.grantedOrder.get src = 0
    · rw [if_neg fun h => h.2 none, if_pos order, if_pos none]
      exact (sent_append_nil s).symm
    · rw [if_pos ⟨order, none⟩, if_pos order, if_neg none]
      exact returnOrderCredit_spent none
  · rw [if_neg fun h => order h.1, if_neg order]
    exact (sent_append_nil s).symm

/-- What a discarded packet is taken to have spent goes back, and nothing else differs. -/
theorem refundDiscarded_eq (p : Port) (k : Byte) (s : State) :
    refundDiscarded p k s = { s with sent := s.sent ++ refundUnits p (creditSpent s p k) } := by
  cases p with
  | host h =>
    unfold refundDiscarded creditSpent
    dsimp only
    by_cases request : k = kindPost ∨ k = kindFetch
    · have notOrder : k ≠ kindOrder := by
        rintro rfl
        exact absurd request (by decide)
      by_cases none : s.ports.grantedRequest.get h = 0
      · rw [if_neg fun h => h.2 none, if_neg fun h => notOrder h.1, if_pos request, if_pos none]
        exact (sent_append_nil s).symm
      · rw [if_pos ⟨request, none⟩, if_pos request, if_neg none]
        exact returnRequestCredits_spent none
    · rw [if_neg fun h => request h.1, if_neg request]
      exact refund_order_eq (.host h) k s
  | mgmt => exact refund_order_eq .mgmt k s
  | target g => exact (sent_append_nil s).symm

theorem creditSpent_setProtocol (p q : Port) (k : Byte) (s : State) : creditSpent (setProtocol p s) q k = creditSpent s q k := by
  cases q <;> rfl

theorem handOn_full {p : Port} {k : Byte} {f : Frame} {s : State}
    (full : (∃ h, p = .host h ∧ k ≠ kindOrder ∧ 8 ≤ (s.ingress h).length) ∨
      ∃ src : Source, p = src.port ∧ k = kindOrder ∧ Config.orderPlaces src ≤ placesUsed (s.orders src)) :
    handOn p k f s = setProtocol p s := by
  rcases full with ⟨h, rfl, hk, full⟩ | ⟨src, rfl, rfl, full⟩
  · rw [handOn_request hk]
    exact if_pos full
  · rw [handOn_order, enterOrders_full full]

/-- Settles O33: the link, the tests and the queue's room decide in this order. -/
theorem packetIsDiscarded : Obligations.PacketIsDiscarded := by
  unfold Obligations.PacketIsDiscarded
  intro s p k f c running arrives
  rw [exec_arrival arrives]
  refine ⟨fun notUp => ⟨_, rfl, ?_⟩, fun up fails => ⟨_, rfl, ?_⟩, fun up passes full => ⟨_, rfl, ?_⟩⟩
  · rw [packetArrives_closed running notUp]
    exact flagOnly_setFlag .protocol p s
  · rw [packetArrives_fails running up fails, discardPacket, refundDiscarded_eq, creditSpent_setProtocol]
    refine ⟨notify_flagRaised _ _ _ (flagRaised_raise _ _ _ _ rfl), (notify_noticesOnly ..).congr_left rfl, ?_, ?_⟩
    · rw [notify_sent]
      cases creditSpent s p k <;> rfl
    · rw [notify_frame]
      rfl
  · rw [packetArrives_passes running up passes, handOn_full full]
    exact flagOnly_setFlag .protocol p s

end Sys2Proof.Machine
end

section
/-! PROOFS. The arbiter, and orders that are refused. -/

namespace Sys2Proof.Machine

/-! ### The arbiter (R78) -/

theorem mem_sourcesAfter (at_ src : Source) : src ∈ sourcesAfter at_ := by
  cases at_ with
  | mgmt => cases src with
    | mgmt => decide
    | host h => cases h <;> decide
  | host k => cases k <;> cases src with
    | mgmt => decide
    | host h => cases h <;> decide

theorem oldestQueued_eq_none_iff (s : State) (src : Source) :
    oldestQueued s src = none ↔ ∀ e ∈ s.orders src, e.state ≠ .queued := by
  unfold oldestQueued
  rw [List.find?_eq_none]
  simp [isQueued]

/-- Settles O48: the arbiter searches the sources from its position on, and each queue from its oldest entry on. -/
theorem arbiterServesInTurn : Obligations.ArbiterServesInTurn := by
  unfold Obligations.ArbiterServesInTurn
  intro s
  refine ⟨?_, fun src e next => ?_⟩
  · unfold nextOrder
    rw [List.findSome?_eq_none_iff]
    simp only [Option.map_eq_none_iff, oldestQueued_eq_none_iff]
    exact ⟨fun none src => none src (mem_sourcesAfter _ _), fun none src _ => none src⟩
  · obtain ⟨older, newer, notQueued, queued, split⟩ := nextOrder_spec next
    refine ⟨⟨older, newer, split, queued, notQueued⟩, ?_⟩
    obtain ⟨before, src', after, sources, found, passed⟩ := List.findSome?_eq_some_iff.1 next
    obtain ⟨e', _, same⟩ := Option.map_eq_some_iff.1 found
    cases same
    exact ⟨before, after, sources, fun other ho => (oldestQueued_eq_none_iff s other).1 (Option.map_eq_none_iff.1 (passed other ho))⟩

/-! ### One row per order: its checks, and what it carries out -/

/-- The checks of an order that names a window: whether ownership and lock are checked, and its own operand and resource
checks. -/
structure WindowRow where
  owned : Bool
  lockable : Bool
  operands : Fin Config.slots → Window → OrderEntry → State → Option Status
  resources : Fin Config.slots → Window → OrderEntry → State → Option Status

def windowRow : OrderName → Option WindowRow
  | .query => some ⟨false, false, noWindowCheck, noWindowCheck⟩
  | .activate => some ⟨true, false, noWindowCheck, noWindowCheck⟩
  | .lock => some ⟨true, false, noWindowCheck, noWindowCheck⟩
  | .modify => some ⟨true, true, modifyOperandCheck, modifyResourceCheck⟩
  | .retire => some ⟨true, true, retireOperandCheck, retireResourceCheck⟩
  | .attach => some ⟨true, true, attachOperandCheck, attachResourceCheck⟩
  | .detach => some ⟨true, true, detachOperandCheck, detachResourceCheck⟩
  | _ => none

/-- The operand check of an order that names no window. -/
def plainOperands : OrderName → Source → OrderEntry → State → Option Status
  | .openWindow => openOperandCheck
  | .setFallback => readsOperands fallbackOperand
  | .setRights => readsOperands rightsOperands
  | .barPort => readsOperands barOperand
  | .enablePort => readsOperands barOperand
  | .setNotify => readsOperands notifyOperands
  | .setTimers => readsOperands timerOperands
  | _ => noPlainCheck

/-- The resource check of an order that names no window. -/
def plainResources : OrderName → Source → OrderEntry → State → Option Status
  | .openWindow => openResourceCheck
  | _ => noPlainCheck

/-- The eight checks of an order (section 4.3). -/
def orderChecks (o : OrderName) (src : Source) (e : OrderEntry) (s : State) : Option Status :=
  match windowRow o with
  | some r => handleOrderChecks o r.owned r.lockable r.operands r.resources src e s
  | none => plainOrderChecks o (plainOperands o) (plainResources o) src e s

/-- What an order that passes its checks carries out. -/
def orderCarry : OrderName → Source → OrderEntry → State → State
  | .query => carryQuery
  | .find => carryFind
  | .list => carryList
  | .readStatus => carryReadStatus
  | .openWindow => carryOpen
  | .activate => carryActivate
  | .modify => carryModify
  | .retire => carryRetire
  | .lock => carryLock
  | .attach => carryAttach
  | .detach => carryDetach
  | .setFallback => carrySetFallback
  | .setRights => carrySetRights
  | .freeze => carryFreeze
  | .barPort => carryBarring true
  | .enablePort => carryBarring false
  | .readEvents => carryReadEvents
  | .clearEvents => carryClearEvents
  | .setEventEnables => carrySetEventEnables
  | .setNotify => carrySetNotify
  | .setTimers => carrySetTimers
  | .resetPaths => carryResetPaths
  | .clearResetCause => carryClearResetCause

/-- The end of an order's event: two orders may be an occasion (R187, R192). -/
def orderEnd : OrderName → State → State → State
  | .setEventEnables, before, s => notify before none s
  | .resetPaths, before, s => notify before none s
  | _, _, s => s

/-- Every order's command is the decision by its row. -/
theorem exec_command (o : OrderName) (s : State) :
    exec o.command s = .next (orderEnd o s (decideOrder (isCode o) (orderChecks o) (orderCarry o) s)) := by
  cases o <;> rfl

/-- An order that passes its checks is carried out. -/
theorem exec_passed {s : State} {src : Source} {e : OrderEntry} {o : OrderName} (h : Decides s src e o)
    (pass : orderChecks o src e (s.setArbiter src) = none) :
    exec o.command s = .next (orderEnd o s (orderCarry o src e (s.setArbiter src))) := by
  obtain ⟨running, next, code⟩ := h
  rw [exec_command, decideOrder_passed running next (by rw [code]; exact isCode_orderCode o) pass]

theorem orderEnd_refused (o : OrderName) (src : Source) (e : OrderEntry) (st : Status) (s : State) :
    orderEnd o s (answerOrder src e st [] (s.setArbiter src)) = answerOrder src e st [] (s.setArbiter src) := by
  have quiet : notify s none (answerOrder src e st [] (s.setArbiter src)) = answerOrder src e st [] (s.setArbiter src) :=
    notify_same _ _ (by rfl)
  unfold orderEnd
  split
  · exact quiet
  · exact quiet
  · rfl

/-- An order that a check refuses is answered with the check's status, and nothing else differs. -/
theorem exec_refused {s : State} {src : Source} {e : OrderEntry} {o : OrderName} {st : Status} (h : Decides s src e o)
    (refused : orderChecks o src e (s.setArbiter src) = some st) :
    ∃ t, exec o.command s = .next t ∧ OrderAnswered src e st [] s t ∧ AnswerFrame s t := by
  obtain ⟨running, next, code⟩ := h
  refine ⟨answerOrder src e st [] (s.setArbiter src), ?_, refused_answer st next⟩
  rw [exec_command, decideOrder_refused running next (by rw [code]; exact isCode_orderCode o) refused, orderEnd_refused]

/-! ### The first two checks -/

theorem orderChecks_rights {o : OrderName} {src : Source} {e : OrderEntry} {s : State} {st : Status}
    (h : rightsCheck o src s = some st) : orderChecks o src e s = some st := by
  unfold orderChecks
  split
  · rw [handleOrderChecks, h, firstRefusal_some]
  · rw [plainOrderChecks, h, firstRefusal_some]

theorem orderChecks_freeze {o : OrderName} {src : Source} {e : OrderEntry} {s : State} {st : Status}
    (rights : rightsCheck o src s = none) (h : freezeCheck o s = some st) : orderChecks o src e s = some st := by
  unfold orderChecks
  split
  · rw [handleOrderChecks, rights, h, firstRefusal_none, firstRefusal_some]
  · rw [plainOrderChecks, rights, h, firstRefusal_none, firstRefusal_some]

/-- Settles O49: the four questions of the first check, in their order. -/
theorem sourceCheckRefuses : Obligations.SourceCheckRefuses := by
  unfold Obligations.SourceCheckRefuses
  intro s h e o st decides fails
  refine exec_refused decides (orderChecks_rights ?_)
  change rightsCheck o (.host h) s = some st
  unfold rightsCheck
  dsimp only
  rcases fails with ⟨barred, rfl⟩ | ⟨unbarred, rights, rfl⟩ | ⟨unbarred, rights, cls, rfl⟩ | ⟨unbarred, rights, cls, rfl⟩
  · rw [barred]; rfl
  · rw [unbarred, rights]; rfl
  · have some : (s.eng.rights.get h == Rights.none) = false := by simpa using rights
    rw [unbarred, some, cls]; rfl
  · rw [unbarred, rights, cls]; rfl

theorem orderOfCode_none {c : Byte} (h : c = 0 ∨ 0x18 ≤ c.toNat) : orderOfCode c = none := by
  unfold orderOfCode
  rw [List.find?_eq_none]
  intro o _
  have apart : orderCode o ≠ c := by
    rintro rfl
    revert h
    cases o <;> decide
  simpa using apart

/-- Settles O52: the code is looked at before any check. -/
theorem unknownOrderAnswered : Obligations.UnknownOrderAnswered := by
  unfold Obligations.UnknownOrderAnswered
  intro s src e running next code
  refine ⟨answerOrder src e .unknownOrder [] (s.setArbiter src), ?_, refused_answer .unknownOrder next⟩
  have answer : exec .unknownOrder s = execUnknownOrder s := rfl
  rw [answer, execUnknownOrder, decideOrder_refused running next (by rw [orderOfCode_none code]; rfl) rfl]

/-! ### The checks of a window (R84 to R86) -/

theorem slotNumber_eq_some {b : List Byte} {i : Fin Config.slots} (h : (blockByte b 0).toNat = i.val) :
    slotNumber b = some i := by
  unfold slotNumber slotOf
  rw [dif_pos (by rw [h]; exact i.isLt)]
  exact congrArg some (Fin.ext h)

theorem resolve_free {s : State} {b : List Byte} {i : Fin Config.slots} (number : (blockByte b 0).toNat = i.val)
    (free : (s.slot i).window = none) : resolve s b = .notFound := by
  unfold resolve
  rw [slotNumber_eq_some number]
  dsimp only
  rw [free]

theorem resolve_stale {s : State} {b : List Byte} {i : Fin Config.slots} {w : Window} (number : (blockByte b 0).toNat = i.val)
    (window : (s.slot i).window = some w) (other : (s.slot i).generation ≠ blockByte b 1) : resolve s b = .stale := by
  unfold resolve
  rw [slotNumber_eq_some number]
  dsimp only
  rw [window]
  exact if_neg other

theorem resolve_noSuchSlot {s : State} {b : List Byte} (number : 64 ≤ (blockByte b 0).toNat) : resolve s b = .noSuchSlot := by
  have none : slotNumber b = none := by
    unfold slotNumber slotOf
    exact dif_neg (Nat.not_lt.2 number)
  unfold resolve
  rw [none]

/-- The last of a list of checks decides where the others pass. -/
theorem firstRefusal_singleton (x : Option Status) : firstRefusal [x] = x := by cases x <;> rfl

section windowChecks

variable {o : OrderName} {r : WindowRow} {src : Source} {e : OrderEntry} {s : State} (row : windowRow o = some r)
  (rights : MayOrder s src o) (thawed : o.changes = true → s.eng.frozen = false)

include row rights thawed

/-- An order that names a window and passes its first two checks comes to its handle. -/
theorem orderChecks_handle {st : Status} (refused : handleCheck (resolve s e.block) = some st) :
    orderChecks o src e s = some st := by
  unfold orderChecks
  rw [row]
  dsimp only
  rw [handleOrderChecks, rightsCheck_pass rights, freezeCheck_pass thawed, refused]
  rfl

theorem orderChecks_noSuchSlot (number : 64 ≤ (blockByte e.block 0).toNat) : orderChecks o src e s = some .badOperand := by
  unfold orderChecks
  rw [row]
  dsimp only
  rw [handleOrderChecks, rightsCheck_pass rights, freezeCheck_pass thawed, resolve_noSuchSlot number]
  rfl

/-- The fourth to eighth checks, on the window that the handle names. -/
theorem orderChecks_found {i : Fin Config.slots} {w : Window} (names : NamesWindow s e.block i w) :
    orderChecks o src e s =
      firstRefusal [if r.owned then ownerCheck src w else none, if r.lockable then lockCheck w else none, stateCheck o w,
        r.operands i w e s, r.resources i w e s] := by
  unfold orderChecks
  rw [row]
  dsimp only
  have found : handleCheck (.found i w) = none := rfl
  rw [handleOrderChecks, rightsCheck_pass rights, freezeCheck_pass thawed, resolve_names names, found,
    firstRefusal_none, firstRefusal_none, firstRefusal_none, firstRefusal_singleton]

end windowChecks

theorem ownerCheck_fail {src : Source} {w : Window} (h : ¬Owns src w) : ownerCheck src w = some .notOwner := by
  obtain ⟨other, notOwner⟩ := not_or.1 h
  cases src with
  | mgmt => exact absurd rfl other
  | host k =>
    have ne : (w.owner != .host k) = true := by simpa using notOwner
    rw [ownerCheck, ne]
    rfl

theorem stateCheck_draining {o : OrderName} {w : Window} (draining : isDraining w.state = true) (query : o ≠ .query) :
    stateCheck o w = some .busy := by
  unfold stateCheck
  split
  · exact absurd rfl query
  · rw [if_pos draining]

/-- The orders that name a window. -/
def namingOrders : List OrderName := [.query, .activate, .modify, .retire, .lock, .attach, .detach]

/-- The orders that a lock refuses. -/
def lockableOrders : List OrderName := [.modify, .retire, .attach, .detach]

theorem windowRow_naming {o : OrderName} (h : o ∈ namingOrders) :
    ∃ r, windowRow o = some r ∧ (o ≠ .query → r.owned = true) ∧ (o ∈ lockableOrders → r.lockable = true) ∧
      (o ∈ [OrderName.activate, .lock] → r.lockable = false) := by
  cases o <;> simp_all [windowRow, namingOrders, lockableOrders]

/-- Settles O50: the freeze check, the handle, and then ownership, lock and state of the window that it names. -/
theorem laterChecksRefuse : Obligations.LaterChecksRefuse := by
  unfold Obligations.LaterChecksRefuse
  intro s src e o st decides rights fails
  refine exec_refused decides ?_
  have rights' : MayOrder (s.setArbiter src) src o := rights
  rcases fails with ⟨changes, frozen, rfl⟩ | ⟨thawed, naming, i, number, fails⟩
  · have check : freezeCheck o (s.setArbiter src) = some .frozen := by
      have frozen' : (s.setArbiter src).eng.frozen = true := frozen
      rw [freezeCheck, changes, frozen']
      rfl
    exact orderChecks_freeze (rightsCheck_pass rights') check
  · obtain ⟨r, row, owned, lockable, unlockable⟩ := windowRow_naming naming
    rcases fails with ⟨free, rfl⟩ | ⟨w, window, ⟨other, rfl⟩ | ⟨generation, query, fails⟩⟩
    · exact orderChecks_handle row rights' thawed (by rw [resolve_free number (by exact free)]; rfl)
    · exact orderChecks_handle row rights' thawed (by rw [resolve_stale number (by exact window) (by exact other)]; rfl)
    · have names : NamesWindow (s.setArbiter src) e.block i w := ⟨number, window, generation⟩
      rw [orderChecks_found row rights' thawed names, owned query, if_pos rfl]
      rcases fails with ⟨notOwner, rfl⟩ | ⟨owns, fails⟩
      · rw [ownerCheck_fail notOwner, firstRefusal_some]
      · rw [ownerCheck_pass owns, firstRefusal_none]
        rcases fails with ⟨locked, refuses, rfl⟩ | ⟨unlocked, fails⟩
        · rw [lockable refuses, if_pos rfl, lockCheck, locked]
          rfl
        · have pass : (if r.lockable = true then lockCheck w else none) = none := by
            split
            · next lock =>
              rcases unlocked with unlocked | exempt
              · rw [lockCheck, unlocked]; rfl
              · exact absurd lock (by rw [unlockable exempt]; exact Bool.false_ne_true)
            · rfl
          rw [pass, firstRefusal_none]
          rcases fails with ⟨draining, rfl⟩ | ⟨rfl, live, rfl⟩ | ⟨rfl, staged, rfl⟩
          · rw [stateCheck_draining draining query, firstRefusal_some]
          · rw [stateCheck, live]; rfl
          · rw [stateCheck, staged]; rfl

end Sys2Proof.Machine
end

section
/-! PROOFS. Operand and resource checks. -/

namespace Sys2Proof.Machine

/-! ### Orders that name no window (R87, R89) -/

theorem orderChecks_plain {o : OrderName} {src : Source} {e : OrderEntry} {s : State} (plain : windowRow o = none)
    (rights : MayOrder s src o) (thawed : o.changes = true → s.eng.frozen = false) :
    orderChecks o src e s = firstRefusal [plainOperands o src e s, plainResources o src e s] := by
  unfold orderChecks
  rw [plain]
  exact plainOrderChecks_rights rights thawed

theorem readsOperands_none {α : Type} {read : List Byte → Option α} {e : OrderEntry} (h : read e.block = none) (src : Source)
    (s : State) : readsOperands read src e s = some .badOperand := by
  unfold readsOperands refuseNone
  rw [h]
  rfl

theorem readsOperands_some {α : Type} {read : List Byte → Option α} {e : OrderEntry} {x : α} (h : read e.block = some x)
    (src : Source) (s : State) : readsOperands read src e s = none := by
  unfold readsOperands refuseNone
  rw [h]
  rfl

theorem allotmentCheck_pass {owner : Source} {p : Span} {s : State}
    (inside : ∀ h, owner = .host h → insideAllotment (s.eng.allotment.get h) p = true) : allotmentCheck owner p s = none := by
  cases owner with
  | mgmt => rfl
  | host h =>
    unfold allotmentCheck
    dsimp only
    rw [inside h rfl]
    rfl

theorem allotmentCheck_fail {h : HostId} {p : Span} {s : State} (outside : insideAllotment (s.eng.allotment.get h) p = false) :
    allotmentCheck (.host h) p s = some .outsideAllotment := by
  unfold allotmentCheck
  dsimp only
  rw [outside]
  rfl

theorem lowestFreeSlot_none {s : State} (full : ∀ i, (s.slot i).window ≠ none) : lowestFreeSlot s = none := by
  unfold lowestFreeSlot
  rw [List.find?_eq_none]
  intro i _
  simpa using full i

/-! ### Orders that name a window (R88, R93, R111, R113) -/

/-- The orders that a lock refuses have both checks of the window's holder, and their own two. -/
theorem windowRow_lockable {o : OrderName} (h : o ∈ lockableOrders) :
    ∃ r, windowRow o = some r ∧ r.owned = true ∧ r.lockable = true ∧ o.changes = true ∧ o.cls = .window := by
  cases o <;> simp_all [windowRow, lockableOrders, OrderName.changes, OrderName.cls]

theorem stateCheck_lockable {o : OrderName} {w : Window} (h : o ∈ lockableOrders) (settled : w.state = .staged ∨ w.state = .live) :
    stateCheck o w = none := by
  have calm : isDraining w.state = false := by
    rcases settled with staged | live
    · rw [staged]; rfl
    · rw [live]; rfl
  cases o <;> simp_all [stateCheck, lockableOrders]

/-- An order that a source may give on a window comes to its own two checks. -/
theorem orderChecks_lockable {s : State} {src : Source} {e : OrderEntry} {i : Fin Config.slots} {w : Window} {o : OrderName}
    {r : WindowRow} (may : MayChangeWindow s src e i w) (lockable : o ∈ lockableOrders) (row : windowRow o = some r) :
    orderChecks o src e (s.setArbiter src) =
      firstRefusal [r.operands i w e (s.setArbiter src), r.resources i w e (s.setArbiter src)] := by
  obtain ⟨r', row', _, _, _, window⟩ := windowRow_lockable lockable
  cases row.symm.trans row'
  have rights : MayOrder (s.setArbiter src) src o := by
    unfold MayOrder
    rw [window]
    exact may.rights
  have names : NamesWindow (s.setArbiter src) e.block i w := may.names
  have own : (if r.owned = true then ownerCheck src w else none) = none := by rw [ownerCheck_pass may.owns, ite_self]
  have lock : (if r.lockable = true then lockCheck w else none) = none := by
    have open_ : lockCheck w = none := by rw [lockCheck, may.unlocked]; rfl
    rw [open_, ite_self]
  rw [orderChecks_found row rights (fun _ => may.thawed) names, own, lock, stateCheck_lockable lockable may.settled,
    firstRefusal_none, firstRefusal_none, firstRefusal_none]

theorem orderChecks_operands {s : State} {src : Source} {e : OrderEntry} {i : Fin Config.slots} {w : Window} {o : OrderName}
    {r : WindowRow} {st : Status} (may : MayChangeWindow s src e i w) (lockable : o ∈ lockableOrders)
    (row : windowRow o = some r) (refused : r.operands i w e (s.setArbiter src) = some st) :
    orderChecks o src e (s.setArbiter src) = some st := by
  rw [orderChecks_lockable may lockable row, refused, firstRefusal_some]

/-- The eighth check of an order that would start a ninth drain (R88). -/
theorem drainPlaceCheck_busy {routing : Bool} {i : Fin Config.slots} {w : Window} {s : State} (routes : routing = true)
    (live : w.state = .live) (traffic : (s.slot i).count ≠ 0) (full : Config.drainPlaces ≤ s.eng.drains.length) :
    drainPlaceCheck routing i w s = some .busy := by
  have needs : needsDrain routing i w s = true := by simp [needsDrain, routes, live, traffic]
  rw [drainPlaceCheck, needs, decide_eq_true full]
  rfl

theorem drainPlaceCheck_pass {routing : Bool} {i : Fin Config.slots} {w : Window} {s : State}
    (h : needsDrain routing i w s = false ∨ s.eng.drains.length < Config.drainPlaces) : drainPlaceCheck routing i w s = none := by
  have calm : (needsDrain routing i w s && decide (Config.drainPlaces ≤ s.eng.drains.length)) = false := by
    rw [Bool.and_eq_false_iff, decide_eq_false_iff_not, Nat.not_le]
    exact h
  rw [drainPlaceCheck, calm]
  rfl

theorem chainHolds_iff (chain : List ExtRecord) (k : ExtKind) : chainHolds chain k = true ↔ k ∈ chain.map ExtRecord.kind := by
  unfold chainHolds
  rw [List.any_eq_true, List.mem_map]
  simp only [beq_iff_eq]

theorem chainHolds_eq_false_iff (chain : List ExtRecord) (k : ExtKind) :
    chainHolds chain k = false ↔ k ∉ chain.map ExtRecord.kind := by
  rw [← chainHolds_iff, Bool.not_eq_true]

/-- The own checks of MODIFY, ATTACH and DETACH pass up to the drain's place (R87, R88). -/
theorem ChangePasses.row {o : OrderName} {s : State} {i : Fin Config.slots} {w : Window} {e : OrderEntry} {c : PendingChange}
    {m : Mode} (h : ChangePasses o s i w e.block c m) :
    ∃ r, windowRow o = some r ∧ o ∈ lockableOrders ∧ r.operands i w e s = none ∧
      r.resources i w e s = drainPlaceCheck (isRouting c) i w s := by
  obtain ⟨mode, ⟨rfl, f, reads, rfl, good, range⟩ | ⟨rfl, x, reads, rfl, fresh, pool⟩ | ⟨rfl, k, reads, rfl, holds⟩⟩ := h
  · refine ⟨_, rfl, by decide, ?_, ?_⟩
    · change modifyOperandCheck i w e s = none
      unfold modifyOperandCheck
      rw [reads, mode]
      dsimp only
      rw [good, if_neg Bool.false_ne_true]
      split
      · next moves =>
        obtain ⟨inside, apart⟩ := range moves
        rw [allotmentCheck_pass inside, apart]
        rfl
      · rfl
    · change modifyResourceCheck i w e s = _
      unfold modifyResourceCheck
      rw [reads]
  · refine ⟨_, rfl, by decide, ?_, ?_⟩
    · change attachOperandCheck i w e s = none
      unfold attachOperandCheck
      rw [reads, mode]
      dsimp only
      rw [(chainHolds_eq_false_iff _ _).2 fresh]
      rfl
    · change attachResourceCheck i w e s = _
      have some : (s.dir.poolFree == 0) = false := by simpa using pool
      unfold attachResourceCheck
      rw [reads]
      dsimp only
      rw [some, refuseIf_false, firstRefusal_none, firstRefusal_singleton]
  · refine ⟨_, rfl, by decide, ?_, ?_⟩
    · change detachOperandCheck i w e s = none
      unfold detachOperandCheck
      rw [reads, mode]
      dsimp only
      rw [(chainHolds_iff _ _).2 holds]
      rfl
    · change detachResourceCheck i w e s = _
      unfold detachResourceCheck
      rw [reads]

/-- A supplied target, access or users without a code leaves a MODIFY without operands (R92). -/
theorem modifyOperands_none {b : List Byte}
    (h : supplied b 2 = true ∧ targetOf b = none ∨ supplied b 3 = true ∧ accessOf b = none ∨
      supplied b 4 = true ∧ usersOf b = none) : modifyOperands b = none := by
  have unread : ∀ {α : Type} {marked : Bool} {value : Option α}, marked = true ∧ value = none → suppliedField marked value = none :=
    fun {_ _ _} h => by
      rw [suppliedField, h.1, h.2]
      rfl
  rw [Option.eq_none_iff_forall_ne_some]
  intro f reads
  unfold modifyOperands at reads
  simp only [Option.bind_eq_bind, Option.bind_eq_some_iff] at reads
  obtain ⟨target, ht, access, ha, users, hu, _⟩ := reads
  rcases h with h | h | h
  · rw [unread h] at ht; cases ht
  · rw [unread h] at ha; cases ha
  · rw [unread h] at hu; cases hu

/-- The seventh check refuses the four orders that name a mode where it has no value (R87). -/
theorem operands_noMode {o : OrderName} {r : WindowRow} (row : windowRow o = some r) (lockable : o ∈ lockableOrders)
    {e : OrderEntry} (mode : modeOf e.block = none) (i : Fin Config.slots) (w : Window) (s : State) :
    r.operands i w e s = some .badOperand := by
  cases o <;> simp [lockableOrders] at lockable <;> cases row
  · change modifyOperandCheck i w e s = _
    unfold modifyOperandCheck
    rw [mode]
    cases modifyOperands e.block <;> rfl
  · change retireOperandCheck i w e s = _
    unfold retireOperandCheck
    rw [mode]
    rfl
  · change attachOperandCheck i w e s = _
    unfold attachOperandCheck
    rw [mode]
    cases attachOperands e.block w <;> rfl
  · change detachOperandCheck i w e s = _
    unfold detachOperandCheck
    rw [mode]
    cases kindOf e.block <;> rfl

/-- The refusals of an OPEN (R2, R89). -/
theorem openChecks_refuse {s : State} {src : Source} {e : OrderEntry} {st : Status}
    (fails : (openOperands e.block src = none ∧ st = .badOperand) ∨
      ∃ w, openOperands e.block src = some w ∧
        ((∃ h, src = .host h ∧ insideAllotment (s.eng.allotment.get h) (currentSpan w) = false ∧ st = .outsideAllotment) ∨
          (∀ h, src = .host h → insideAllotment (s.eng.allotment.get h) (currentSpan w) = true) ∧
            ((overlapsOther s none (currentSpan w) = true ∧ st = .overlap) ∨
              (overlapsOther s none (currentSpan w) = false ∧ (∀ i, (s.slot i).window ≠ none) ∧ st = .noSlot)))) :
    firstRefusal [openOperandCheck src e s, openResourceCheck src e s] = some st := by
  unfold openOperandCheck
  rcases fails with ⟨unread, rfl⟩ | ⟨w, reads, fails⟩
  · rw [unread]; rfl
  · rw [reads]
    dsimp only
    rcases fails with ⟨h, rfl, outside, rfl⟩ | ⟨inside, ⟨overlap, rfl⟩ | ⟨apart, full, rfl⟩⟩
    · rw [allotmentCheck_fail outside]; rfl
    · rw [allotmentCheck_pass inside, overlap]; rfl
    · rw [allotmentCheck_pass inside, apart, openResourceCheck, lowestFreeSlot_none full]; rfl

/-- The refusals of a MODIFY by its range (R93). -/
theorem modifyOperandCheck_refuse {s : State} {i : Fin Config.slots} {w : Window} {e : OrderEntry} {f : ModifyFields}
    {st : Status} (reads : modifyOperands e.block = some f) (mode : (modeOf e.block).isSome = true)
    (fails : (modifyIsBad f w = true ∧ st = .badOperand) ∨
      modifyIsBad f w = false ∧ f.movesRange = true ∧
        ((∃ h, w.owner = .host h ∧ insideAllotment (s.eng.allotment.get h) (modifiedSpan f w) = false ∧ st = .outsideAllotment) ∨
          (∀ h, w.owner = .host h → insideAllotment (s.eng.allotment.get h) (modifiedSpan f w) = true) ∧
            overlapsOther s (some i) (modifiedSpan f w) = true ∧ st = .overlap)) :
    modifyOperandCheck i w e s = some st := by
  obtain ⟨m, mode⟩ := Option.isSome_iff_exists.1 mode
  unfold modifyOperandCheck
  rw [reads, mode]
  dsimp only
  rcases fails with ⟨bad, rfl⟩ | ⟨good, moves, ⟨h, owner, outside, rfl⟩ | ⟨inside, overlap, rfl⟩⟩
  · rw [if_pos bad]
  · rw [good, if_neg Bool.false_ne_true, if_pos moves, owner, allotmentCheck_fail outside]; rfl
  · rw [good, if_neg Bool.false_ne_true, if_pos moves, allotmentCheck_pass inside, overlap]; rfl

/-- Operands of a setting order that read to no value (R25, R138, R154, R188, R189). -/
theorem orderChecks_unread {α : Type} {read : List Byte → Option α} {o : OrderName} {src : Source} {e : OrderEntry} {s : State}
    (rights : MayOrder s src o) (thawed : o.changes = true → s.eng.frozen = false) (plain : windowRow o = none)
    (reads : plainOperands o = readsOperands read) (none : read e.block = none) : orderChecks o src e s = some .badOperand := by
  rw [orderChecks_plain plain rights thawed, reads, readsOperands_none none, firstRefusal_some]

theorem modifyOperandCheck_unread {e : OrderEntry} (none : modifyOperands e.block = none) (i : Fin Config.slots) (w : Window)
    (s : State) : modifyOperandCheck i w e s = some .badOperand := by
  unfold modifyOperandCheck
  rw [none]

theorem attachOperandCheck_unread {e : OrderEntry} {w : Window} (none : attachOperands e.block w = none) (i : Fin Config.slots)
    (s : State) : attachOperandCheck i w e s = some .badOperand := by
  unfold attachOperandCheck
  rw [none]

/-- The refusals of an ATTACH whose record is read (R111). -/
theorem attachChecks_refuse {s : State} {i : Fin Config.slots} {w : Window} {e : OrderEntry} {r : ExtRecord} {st : Status}
    (reads : attachOperands e.block w = some r) (mode : (modeOf e.block).isSome = true)
    (fails : (r.kind ∈ w.chain.map ExtRecord.kind ∧ st = .duplicateKind) ∨
      (r.kind ∉ w.chain.map ExtRecord.kind ∧ s.dir.poolFree = 0 ∧ st = .noSpace)) :
    firstRefusal [attachOperandCheck i w e s, attachResourceCheck i w e s] = some st := by
  obtain ⟨m, mode⟩ := Option.isSome_iff_exists.1 mode
  unfold attachOperandCheck attachResourceCheck
  rw [reads, mode]
  dsimp only
  rcases fails with ⟨holds, rfl⟩ | ⟨fresh, empty, rfl⟩
  · rw [(chainHolds_iff _ _).2 holds]; rfl
  · rw [(chainHolds_eq_false_iff _ _).2 fresh, empty]; rfl

theorem detachOperandCheck_refuse {e : OrderEntry} {w : Window} (fresh : ∀ k, kindOf e.block = some k → k ∉ w.chain.map ExtRecord.kind)
    (i : Fin Config.slots) (s : State) : detachOperandCheck i w e s = some .badOperand := by
  unfold detachOperandCheck
  split
  · next k m reads mode =>
    rw [(chainHolds_eq_false_iff _ _).2 (fresh k reads)]
    rfl
  · rfl

/-- A change that would start a ninth drain (R88). -/
theorem ChangePasses.busy {o : OrderName} {s : State} {src : Source} {i : Fin Config.slots} {w : Window} {e : OrderEntry}
    {c : PendingChange} {m : Mode} (may : MayChangeWindow s src e i w) (h : ChangePasses o s i w e.block c m)
    (routes : isRouting c = true) (live : w.state = .live) (traffic : (s.slot i).count ≠ 0)
    (full : Config.drainPlaces ≤ s.eng.drains.length) : orderChecks o src e (s.setArbiter src) = some .busy := by
  have h' : ChangePasses o (s.setArbiter src) i w e.block c m := h
  obtain ⟨r, row, lockable, operands, resources⟩ := h'.row
  rw [orderChecks_lockable may lockable row, operands, resources, firstRefusal_none, firstRefusal_singleton]
  exact drainPlaceCheck_busy routes live traffic full

/-- Settles O51: each row's own two checks, in their order. -/
theorem operandsAndResourcesRefuse : Obligations.OperandsAndResourcesRefuse := by
  unfold Obligations.OperandsAndResourcesRefuse
  intro s src e o st decides rights thawed fails
  refine exec_refused decides ?_
  have rights' : MayOrder (s.setArbiter src) src o := rights
  rcases fails with ⟨naming, number, rfl⟩ | ⟨rfl, unread⟩ | ⟨rfl, fails⟩ | ⟨i, w, may, fails⟩
  · obtain ⟨r, row, _⟩ := windowRow_naming naming
    exact orderChecks_noSuchSlot row rights' thawed number
  · rcases unread with ⟨rfl, none⟩ | ⟨rfl, none⟩ | ⟨rfl | rfl, none⟩ | ⟨rfl, none⟩ | ⟨rfl, none⟩ <;>
      exact orderChecks_unread rights' thawed rfl rfl none
  · rw [orderChecks_plain rfl rights' thawed]
    exact openChecks_refuse fails
  · rcases fails with ⟨lockable, mode, rfl⟩ | ⟨rfl, unread, rfl⟩ | ⟨mode, fails⟩ | ⟨live, traffic, full, rfl, fails⟩
    · obtain ⟨r, row, _⟩ := windowRow_lockable lockable
      rw [orderChecks_lockable may lockable row, operands_noMode row lockable mode]
      rfl
    · exact orderChecks_operands may (by decide) rfl (modifyOperandCheck_unread (modifyOperands_none unread) ..)
    · rcases fails with ⟨rfl, f, reads, fails⟩ | ⟨rfl, unread, rfl⟩ | ⟨rfl, r, reads, fails⟩ | ⟨rfl, fresh, rfl⟩
      · exact orderChecks_operands may (by decide) rfl (modifyOperandCheck_refuse reads mode fails)
      · exact orderChecks_operands may (by decide) rfl (attachOperandCheck_unread unread i (s.setArbiter src))
      · rw [orderChecks_lockable may (by decide) rfl]
        exact attachChecks_refuse reads mode fails
      · exact orderChecks_operands may (by decide) rfl (detachOperandCheck_refuse fresh i (s.setArbiter src))
    · rcases fails with ⟨rfl, mode⟩ | ⟨c, m, passes, routes⟩
      · obtain ⟨m, mode⟩ := Option.isSome_iff_exists.1 mode
        have operands : retireOperandCheck i w e (s.setArbiter src) = none := by
          unfold retireOperandCheck
          rw [mode]
          rfl
        have place : retireResourceCheck i w e (s.setArbiter src) = some .busy := drainPlaceCheck_busy rfl live traffic full
        rw [orderChecks_lockable may (by decide) rfl]
        exact (congrArg₂ (fun a b => firstRefusal [a, b]) operands place).trans rfl
      · exact passes.busy may routes live traffic full

end Sys2Proof.Machine
end

section
/-! PROOFS. Orders carried out. -/

namespace Sys2Proof.Machine

/-! ### An order that passes its checks (R79, R80) -/

section passes

variable {o : OrderName} {src : Source} {e : OrderEntry} {s : State}

theorem orderChecks_pass (plain : windowRow o = none) (rights : MayOrder s src o) (thawed : o.changes = true → s.eng.frozen = false)
    (operands : plainOperands o src e s = none) (resources : plainResources o src e s = none) : orderChecks o src e s = none := by
  rw [orderChecks_plain plain rights thawed, operands, resources]
  rfl

/-- An order that passes is answered with what its carrying out makes, the queues being those before it. -/
theorem exec_answers {u : State} {rs : List Byte} (decides : Decides s src e o)
    (pass : orderChecks o src e (s.setArbiter src) = none) (ends : ∀ t, orderEnd o s t = t)
    (carries : orderCarry o src e (s.setArbiter src) = answerOrder src e .done rs u) (orders : u.eng.orders = s.eng.orders)
    (returns : u.ports.returns = s.ports.returns) (position : u.eng.position = src) :
    ∃ t, exec o.command s = .next t ∧ OrderAnswered src e .done rs s t ∧ t = answerOrder src e .done rs u := by
  obtain ⟨running, next, code⟩ := decides
  refine ⟨_, ?_, orderAnswered_answerOrder next orders returns position, rfl⟩
  rw [exec_passed ⟨running, next, code⟩ pass, ends, carries]

end passes

/-! ### The setting orders of M (R25, R138, R144, R154, R188, R189, R191) -/

/-- A management order of M whose operands have a value passes its checks. -/
theorem orderChecks_setting {o : OrderName} {e : OrderEntry} {s : State} (plain : windowRow o = none)
    (management : o.cls = .management) (thawed : o.changes = true → s.eng.frozen = false)
    (operands : plainOperands o .mgmt e s = none) (resources : plainResources o = noPlainCheck) :
    orderChecks o .mgmt e s = none := by
  refine orderChecks_pass plain ?_ thawed operands (by rw [resources]; rfl)
  unfold MayOrder
  rw [management]

theorem timerOperands_some {b : List Byte} (reply : 1 ≤ (replyLimitOf b).toNat) (drain : 1 ≤ (drainLimitOf b).toNat)
    (most : (drainLimitOf b).toNat ≤ 4095) : timerOperands b = some (replyLimitOf b, drainLimitOf b) := by
  unfold timerOperands
  refine if_neg ?_
  have max : Config.drainLimitMax = 4095 := rfl
  omega

section settings

variable {s : State} {e : OrderEntry}

theorem exec_setFallback {f : Option TargetId} (decides : Decides s .mgmt e .setFallback) (thawed : s.eng.frozen = false)
    (reads : fallbackOperand e.block = some f) :
    ∃ t, exec .setFallback s = .next t ∧ OrderAnswered .mgmt e .done [] s t ∧
      t = answerOrder .mgmt e .done [] ((s.setArbiter .mgmt).setFallback f) := by
  refine exec_answers decides (orderChecks_setting rfl rfl (fun _ => thawed) (readsOperands_some reads .mgmt (s.setArbiter .mgmt)) rfl) (fun _ => rfl) ?_
    rfl rfl rfl
  change carrySetFallback .mgmt e _ = _
  unfold carrySetFallback
  rw [reads]

theorem exec_setRights {h : HostId} {r : Rights} {a : Option Range} (decides : Decides s .mgmt e .setRights)
    (thawed : s.eng.frozen = false) (reads : rightsOperands e.block = some (h, r, a)) :
    ∃ t, exec .setRights s = .next t ∧
      OrderAnswered .mgmt e .done (rightsBytes (s.eng.rights.get h) (s.eng.allotment.get h)) s t ∧
      t = answerOrder .mgmt e .done (rightsBytes (s.eng.rights.get h) (s.eng.allotment.get h))
        (writeRights h r a (s.setArbiter .mgmt)) := by
  refine exec_answers decides (orderChecks_setting rfl rfl (fun _ => thawed) (readsOperands_some reads .mgmt (s.setArbiter .mgmt)) rfl) (fun _ => rfl) ?_
    rfl rfl rfl
  change carrySetRights .mgmt e _ = _
  unfold carrySetRights
  rw [reads]
  rfl

theorem exec_freeze (decides : Decides s .mgmt e .freeze) :
    ∃ t, exec .freeze s = .next t ∧ OrderAnswered .mgmt e .done [markCode s.eng.frozen] s t ∧
      t = answerOrder .mgmt e .done [markCode s.eng.frozen] (setFrozen (s.setArbiter .mgmt)) :=
  exec_answers decides (orderChecks_setting rfl rfl nofun rfl rfl) (fun _ => rfl) rfl rfl rfl rfl

theorem writeBarred_queues (p : Port) (b : Bool) (s : State) :
    (writeBarred p b s).eng = s.eng ∧ (writeBarred p b s).ports.returns = s.ports.returns := by
  cases p <;> exact ⟨rfl, rfl⟩

theorem exec_barring {o : OrderName} {b : Bool} {p : Port} (bars : o = .barPort ∧ b = true ∨ o = .enablePort ∧ b = false)
    (decides : Decides s .mgmt e o) (reads : barOperand e.block = some p) :
    ∃ t, exec o.command s = .next t ∧ OrderAnswered .mgmt e .done [markCode (isBarred p s)] s t ∧
      t = answerOrder .mgmt e .done [markCode (isBarred p s)] (writeBarred p b (s.setArbiter .mgmt)) := by
  obtain ⟨eng, returns⟩ := writeBarred_queues p b (s.setArbiter .mgmt)
  have barred : isBarred p (s.setArbiter .mgmt) = isBarred p s := by cases p <;> rfl
  have carries : carryBarring b .mgmt e (s.setArbiter .mgmt) =
      answerOrder .mgmt e .done [markCode (isBarred p s)] (writeBarred p b (s.setArbiter .mgmt)) := by
    unfold carryBarring
    rw [reads, ← barred]
  rcases bars with ⟨rfl, rfl⟩ | ⟨rfl, rfl⟩ <;>
    exact exec_answers decides (orderChecks_setting rfl rfl nofun (readsOperands_some reads .mgmt (s.setArbiter .mgmt)) rfl) (fun _ => rfl) carries
      (by rw [eng]; rfl) returns (by rw [eng]; rfl)

theorem exec_setTimers (decides : Decides s .mgmt e .setTimers)
    (reads : timerOperands e.block = some (replyLimitOf e.block, drainLimitOf e.block)) :
    ∃ t, exec .setTimers s = .next t ∧
      OrderAnswered .mgmt e .done (beBytes 2 s.eng.replyLimit.toNat ++ beBytes 2 s.eng.drainLimit.toNat) s t ∧
      t = answerOrder .mgmt e .done (beBytes 2 s.eng.replyLimit.toNat ++ beBytes 2 s.eng.drainLimit.toNat)
        (writeLimits (replyLimitOf e.block) (drainLimitOf e.block) (s.setArbiter .mgmt)) := by
  refine exec_answers decides (orderChecks_setting rfl rfl nofun (readsOperands_some reads .mgmt (s.setArbiter .mgmt)) rfl) (fun _ => rfl) ?_
    rfl rfl rfl
  change carrySetTimers .mgmt e _ = _
  unfold carrySetTimers
  rw [reads]
  rfl

theorem exec_setNotify {n : NotifySetting} (decides : Decides s .mgmt e .setNotify) (reads : notifyOperands e.block = some n) :
    ∃ t, exec .setNotify s = .next t ∧ OrderAnswered .mgmt e .done (settingBytes s.events.setting) s t ∧
      t = answerOrder .mgmt e .done (settingBytes s.events.setting) (writeSetting n (s.setArbiter .mgmt)) := by
  refine exec_answers decides (orderChecks_setting rfl rfl nofun (readsOperands_some reads .mgmt (s.setArbiter .mgmt)) rfl) (fun _ => rfl) ?_
    rfl rfl rfl
  change carrySetNotify .mgmt e _ = _
  unfold carrySetNotify
  rw [reads]
  rfl

theorem exec_clearResetCause (decides : Decides s .mgmt e .clearResetCause) :
    ∃ t, exec .clearResetCause s = .next t ∧ OrderAnswered .mgmt e .done [causeByte s.ctl.cause] s t ∧
      t = answerOrder .mgmt e .done [causeByte s.ctl.cause] (emptyCause (s.setArbiter .mgmt)) :=
  exec_answers decides (orderChecks_setting rfl rfl nofun rfl rfl) (fun _ => rfl) rfl rfl rfl rfl

end settings

/-- Settles O58: each order writes its own field of the state, and the answer its queues. -/
theorem settingOrdersWrite : Obligations.SettingOrdersWrite := by
  unfold Obligations.SettingOrdersWrite
  intro s e
  refine ⟨fun f decides thawed reads => ?_, fun h r a decides thawed reads => ?_, fun decides => ?_,
    fun o b p bars decides reads => ?_, fun r d decides hr hd reply drain most => ?_, fun n decides reads => ?_, fun decides => ?_⟩
  · obtain ⟨t, step, answered, rfl⟩ := exec_setFallback decides thawed reads
    exact ⟨_, step, answered, rfl, rfl⟩
  · obtain ⟨t, step, answered, rfl⟩ := exec_setRights decides thawed reads
    exact ⟨_, step, answered, rfl⟩
  · obtain ⟨t, step, answered, rfl⟩ := exec_freeze decides
    exact ⟨_, step, answered, rfl⟩
  · obtain ⟨t, step, answered, rfl⟩ := exec_barring bars decides reads
    refine ⟨_, step, answered, fun h hp => ?_, fun g hp => ?_, ?_⟩
    · subst hp; exact ⟨rfl, rfl⟩
    · subst hp; exact ⟨rfl, rfl⟩
    · cases p <;> rfl
  · subst hr hd
    obtain ⟨t, step, answered, rfl⟩ := exec_setTimers decides (timerOperands_some reply drain most)
    exact ⟨_, step, answered, rfl⟩
  · obtain ⟨t, step, answered, rfl⟩ := exec_setNotify decides reads
    exact ⟨_, step, answered, rfl⟩
  · obtain ⟨t, step, answered, rfl⟩ := exec_clearResetCause decides
    exact ⟨_, step, answered, rfl⟩

/-! ### OPEN, ACTIVATE and LOCK (R2, R11, R12, R90, R91, R97) -/

theorem find?_finRange_eq_some {n : Nat} {p : Fin n → Bool} {i : Fin n} (hit : p i = true) (below : ∀ k, k < i → p k = false) :
    (List.finRange n).find? p = some i := by
  rw [List.find?_eq_some_iff_getElem]
  refine ⟨hit, i.val, by rw [List.length_finRange]; exact i.isLt, by simp, fun j hj => ?_⟩
  rw [below _ (by simpa [Fin.lt_def] using hj)]
  rfl

theorem lowestFreeSlot_eq {s : State} {i : Fin Config.slots} (free : (s.slot i).window = none)
    (lowest : ∀ k, k < i → (s.slot k).window ≠ none) : lowestFreeSlot s = some i :=
  find?_finRange_eq_some (by rw [free]; rfl) fun k hk => by simpa [Option.isSome_iff_ne_none] using lowest k hk

/-- Settles O54. -/
theorem openFillsLowestFreeSlot : Obligations.OpenFillsLowestFreeSlot := by
  unfold Obligations.OpenFillsLowestFreeSlot
  intro s src e w i decides may thawed reads inside apart free lowest
  have asked := openOperands_spec reads
  have slot : lowestFreeSlot s = some i := lowestFreeSlot_eq free lowest
  have operands : openOperandCheck src e (s.setArbiter src) = none := by
    have apart' : overlapsOther (s.setArbiter src) none (currentSpan w) = false := apart
    have inside' : allotmentCheck src (currentSpan w) (s.setArbiter src) = none := allotmentCheck_pass inside
    unfold openOperandCheck
    rw [reads]
    dsimp only
    rw [inside', apart']
    rfl
  have resources : openResourceCheck src e (s.setArbiter src) = none := by
    have slot' : lowestFreeSlot (s.setArbiter src) = some i := slot
    unfold openResourceCheck
    rw [slot']
    rfl
  have carries : carryOpen src e (s.setArbiter src) =
      answerOrder src e .done [BitVec.ofNat 8 i.val, (s.slot i).generation]
        ((s.setArbiter src).setSlot i { s.slot i with count := 0, window := some w }) := by
    have slot' : lowestFreeSlot (s.setArbiter src) = some i := slot
    unfold carryOpen
    rw [reads, slot']
    rfl
  obtain ⟨t, step, answered, rfl⟩ :=
    exec_answers decides (orderChecks_pass rfl may (fun _ => thawed) operands resources) (fun _ => rfl) carries rfl rfl rfl
  exact ⟨asked.owned, asked.unlocked, asked.chain, asked.settled, _, step, answered, rfl, rfl⟩

/-- ACTIVATE and LOCK have no checks of their own behind the state check (R86). -/
theorem orderChecks_markWindow {s : State} {src : Source} {e : OrderEntry} {i : Fin Config.slots} {w : Window} {o : OrderName}
    (row : windowRow o = some ⟨true, false, noWindowCheck, noWindowCheck⟩) (rights : MayOrder s src o)
    (thawed : s.eng.frozen = false) (names : NamesWindow s e.block i w) (owns : Owns src w) (state : stateCheck o w = none) :
    orderChecks o src e s = none := by
  rw [orderChecks_found row rights (fun _ => thawed) names, if_pos rfl, ownerCheck_pass owns, state]
  rfl

/-- Settles O55. -/
theorem activateAndLockAct : Obligations.ActivateAndLockAct := by
  unfold Obligations.ActivateAndLockAct
  intro s src e i w may thawed names owns
  have names' : NamesWindow (s.setArbiter src) e.block i w := names
  refine ⟨fun decides staged => ?_, fun decides live => ?_⟩
  · have state : stateCheck .activate w = none := by unfold stateCheck; rw [staged]; rfl
    have carries : carryActivate src e (s.setArbiter src) =
        answerOrder src e .done [] (setWindow i { w with state := .live } (s.setArbiter src)) := by
      unfold carryActivate
      rw [resolve_names names']
    obtain ⟨t, step, answered, rfl⟩ :=
      exec_answers decides (orderChecks_markWindow rfl may thawed names' owns state) (fun _ => rfl) carries rfl rfl rfl
    exact ⟨_, step, answered, rfl, rfl⟩
  · have state : stateCheck .lock w = none := by unfold stateCheck; rw [live]; rfl
    have carries : carryLock src e (s.setArbiter src) =
        answerOrder src e .done [] (setWindow i { w with locked := true } (s.setArbiter src)) := by
      unfold carryLock
      rw [resolve_names names']
    obtain ⟨t, step, answered, rfl⟩ :=
      exec_answers decides (orderChecks_markWindow rfl may thawed names' owns state) (fun _ => rfl) carries rfl rfl rfl
    exact ⟨_, step, answered, rfl, rfl⟩

/-! ### Changes of windows (R13, R14, R94, R96, R112, R114, R119) -/

theorem poolReserved_reserve (c : PendingChange) (s : State) : (reserve c s).dir.poolFree = poolReserved c s.dir.poolFree := by
  cases c <;> rfl

theorem releasedBy_detach {w : Window} {k : ExtKind} (kinds : (w.chain.map ExtRecord.kind).Nodup)
    (held : k ∈ w.chain.map ExtRecord.kind) : releasedBy (.detach k) w = 1 := by
  have split := List.length_eq_countP_add_countP (p := fun r : ExtRecord => r.kind == k) (l := w.chain)
  have one : w.chain.countP (fun r => r.kind == k) = 1 := by
    rw [← List.count_eq_one_of_mem kinds held, List.count, List.countP_map]
    rfl
  have rest : (dropKind k w.chain).length = w.chain.countP (fun r => !(r.kind == k)) := List.countP_eq_length_filter.symm
  simp only [releasedBy]
  simp only [Bool.not_eq_true, Bool.decide_eq_false] at split
  omega

/-- A change at once takes an attached record from the pool and gives a detached one back. -/
theorem poolReserved_add_releasedBy {c : PendingChange} {w : Window} (kinds : (w.chain.map ExtRecord.kind).Nodup)
    (held : ∀ k, c = .detach k → k ∈ w.chain.map ExtRecord.kind) (n : Nat) :
    poolReserved c n + releasedBy c w = poolAfter c n := by
  cases c with
  | modify f => rfl
  | attach r => rfl
  | detach k => exact congrArg (n + ·) (releasedBy_detach kinds (held k rfl))

/-- What a change at once leaves of the directory. -/
theorem applyChange_dir (i : Fin Config.slots) (c : PendingChange) (w : Window) (s : State) :
    (applyChange i c w s).dir = { s.dir with
      slots := s.dir.slots.set i.val ⟨(s.slot i).generation, (s.slot i).count, some (changed c w)⟩ i.isLt
      poolFree := s.dir.poolFree + releasedBy c w } := by
  cases c <;> rfl

/-- A change at once differs from the state before it in the directory alone. -/
theorem applyChange_reserve_frame (i : Fin Config.slots) (c : PendingChange) (w : Window) (s : State) :
    applyChange i c w (reserve c s) = { s with dir := (applyChange i c w (reserve c s)).dir } := by
  cases c <;> rfl

theorem needsDrain_reserve (routing : Bool) (i : Fin Config.slots) (w : Window) (c : PendingChange) (s : State) :
    needsDrain routing i w (reserve c s) = needsDrain routing i w s := by
  unfold needsDrain
  rw [reserve_slot]

/-- A change that passes its checks is made on the window that the handle names. -/
theorem ChangePasses.carries {o : OrderName} {s : State} {src : Source} {i : Fin Config.slots} {w : Window} {e : OrderEntry}
    {c : PendingChange} {m : Mode} (h : ChangePasses o s i w e.block c m) (found : resolve s e.block = .found i w) :
    orderCarry o src e s = makeChange i w c m src e (reserve c s) := by
  obtain ⟨mode, ⟨rfl, f, reads, rfl, _⟩ | ⟨rfl, x, reads, rfl, _⟩ | ⟨rfl, k, reads, rfl, _⟩⟩ := h
  · change carryModify src e s = _
    unfold carryModify
    rw [found, reads, mode]
    rfl
  · change carryAttach src e s = _
    unfold carryAttach
    rw [found]
    dsimp only
    rw [reads, mode]
    rfl
  · change carryDetach src e s = _
    unfold carryDetach
    rw [found, reads, mode]
    rfl

theorem ChangePasses.ends {o : OrderName} {s : State} {i : Fin Config.slots} {w : Window} {b : List Byte} {c : PendingChange}
    {m : Mode} (h : ChangePasses o s i w b c m) (before t : State) : orderEnd o before t = t := by
  obtain ⟨_, ⟨rfl, _⟩ | ⟨rfl, _⟩ | ⟨rfl, _⟩⟩ := h <;> rfl

theorem ChangePasses.held {o : OrderName} {s : State} {i : Fin Config.slots} {w : Window} {b : List Byte} {c : PendingChange}
    {m : Mode} (h : ChangePasses o s i w b c m) {k : ExtKind} (detach : c = .detach k) : k ∈ w.chain.map ExtRecord.kind := by
  obtain ⟨_, ⟨_, f, _, rfl, _⟩ | ⟨_, x, _, rfl, _⟩ | ⟨_, k', _, rfl, held⟩⟩ := h
  · cases detach
  · cases detach
  · cases detach
    exact held

section changes

variable {s : State} {src : Source} {e : OrderEntry} {i : Fin Config.slots} {w : Window} (may : MayChangeWindow s src e i w)
include may

/-- A change passes all its checks where it needs no drain or there is a place for one (R88). -/
theorem ChangePasses.pass {o : OrderName} {c : PendingChange} {m : Mode} (h : ChangePasses o s i w e.block c m)
    (place : needsDrain (isRouting c) i w s = false ∨ s.eng.drains.length < Config.drainPlaces) :
    orderChecks o src e (s.setArbiter src) = none := by
  have h' : ChangePasses o (s.setArbiter src) i w e.block c m := h
  obtain ⟨r, row, lockable, operands, resources⟩ := h'.row
  rw [orderChecks_lockable may lockable row, operands, resources, firstRefusal_none, firstRefusal_singleton]
  exact drainPlaceCheck_pass place

theorem resolve_may : resolve (s.setArbiter src) e.block = .found i w :=
  resolve_names (s := s.setArbiter src) may.names

theorem ChangePasses.atOnce {o : OrderName} {c : PendingChange} {m : Mode} (kinds : (w.chain.map ExtRecord.kind).Nodup)
    (decides : Decides s src e o) (h : ChangePasses o s i w e.block c m) (calm : needsDrain (isRouting c) i w s = false) :
    ∃ t, exec o.command s = .next t ∧ OrderAnswered src e .done [] s t ∧
      WindowBecomes i (some (changed c w)) (s.slot i).generation (poolAfter c s.dir.poolFree) s t ∧ DirectoryFrame s t := by
  have h' : ChangePasses o (s.setArbiter src) i w e.block c m := h
  have calm' : needsDrain (isRouting c) i w (reserve c (s.setArbiter src)) = false := by rw [needsDrain_reserve]; exact calm
  have carries : orderCarry o src e (s.setArbiter src) =
      answerOrder src e .done [] (applyChange i c w (reserve c (s.setArbiter src))) := by
    rw [h'.carries (resolve_may may), makeChange, calm', if_neg Bool.false_ne_true]
  have frame := applyChange_reserve_frame i c w (s.setArbiter src)
  obtain ⟨t, step, answered, rfl⟩ :=
    exec_answers decides (h.pass may (.inl calm)) (h.ends s) carries (by rw [frame]; rfl) (by rw [frame]; rfl) (by rw [frame]; rfl)
  refine ⟨_, step, answered, ?_, ?_⟩
  · have pool := poolReserved_add_releasedBy kinds (fun k hk => h.held hk) s.dir.poolFree
    have reserved : (reserve c (s.setArbiter src)).dir = { s.dir with poolFree := poolReserved c s.dir.poolFree } := by
      cases c <;> rfl
    have slot := reserve_slot c (s.setArbiter src) i
    change (applyChange i c w (reserve c (s.setArbiter src))).dir = _
    rw [applyChange_dir, slot, reserved, ← pool]
    rfl
  · unfold DirectoryFrame
    rw [frame]
    rfl

theorem ChangePasses.drains {o : OrderName} {c : PendingChange} {m : Mode} (decides : Decides s src e o)
    (h : ChangePasses o s i w e.block c m) (routes : isRouting c = true) (now : DrainsNow s i w) :
    ∃ t, exec o.command s = .next t ∧
      t = startDrain i w (.drainChange c) .change m src e (reserve c (s.setArbiter src)) := by
  obtain ⟨live, traffic, room⟩ := now
  have h' : ChangePasses o (s.setArbiter src) i w e.block c m := h
  have needs : needsDrain (isRouting c) i w (reserve c (s.setArbiter src)) = true := by
    rw [needsDrain_reserve]
    exact (needsDrain_iff ..).2 ⟨routes, live, traffic⟩
  refine ⟨_, ?_, rfl⟩
  rw [exec_passed decides (h.pass may (.inr room)), h.ends, h'.carries (resolve_may may), makeChange, if_pos needs]

theorem retire_pass {m : Mode} (mode : modeOf e.block = some m)
    (place : needsDrain true i w s = false ∨ s.eng.drains.length < Config.drainPlaces) :
    orderChecks .retire src e (s.setArbiter src) = none := by
  have operands : retireOperandCheck i w e (s.setArbiter src) = none := by
    unfold retireOperandCheck
    rw [mode]
    rfl
  have resources : retireResourceCheck i w e (s.setArbiter src) = none := drainPlaceCheck_pass (s := s.setArbiter src) place
  rw [orderChecks_lockable may (by decide) rfl]
  exact (congrArg₂ (fun a b => firstRefusal [a, b]) operands resources).trans rfl

theorem carryRetire_eq {m : Mode} (mode : modeOf e.block = some m) :
    orderCarry .retire src e (s.setArbiter src) =
      if needsDrain true i w s then startDrain i w .drainRetire .retire m src e (s.setArbiter src)
      else answerOrder src e .done [] (freeSlot i (s.setArbiter src)) := by
  change carryRetire src e _ = _
  unfold carryRetire
  rw [resolve_may may, mode]
  rfl

end changes

theorem freeSlot_eq {s : State} {i : Fin Config.slots} {w : Window} (window : (s.slot i).window = some w) :
    freeSlot i s =
      (s.setSlot i { s.slot i with generation := (s.slot i).generation + 1, window := none }).setPoolFree
        (s.dir.poolFree + w.chain.length) := by
  unfold freeSlot
  rw [window]

/-- A window that is STAGED or has nothing in flight needs no drain (R14). -/
theorem needsDrain_calm {routing : Bool} {i : Fin Config.slots} {w : Window} {s : State}
    (h : w.state = .staged ∨ (s.slot i).count = 0 ∨ routing = false) : needsDrain routing i w s = false := by
  rw [← Bool.not_eq_true, needsDrain_iff]
  rintro ⟨routes, live, traffic⟩
  rcases h with staged | idle | still
  · rw [live] at staged; cases staged
  · exact traffic idle
  · rw [routes] at still; cases still

/-- Settles O56: nothing needs a drain, so that the change or the freeing of the slot is what the answer follows. -/
theorem changesApplyAtOnce : Obligations.ChangesApplyAtOnce := by
  unfold Obligations.ChangesApplyAtOnce
  intro s src e i w fits may
  obtain ⟨number, window, generation⟩ := may.names
  refine ⟨fun o c m decides passes calm => ?_, fun decides mode calm => ?_⟩
  · exact passes.atOnce may (fits i w window).1.kinds decides (needsDrain_calm calm)
  · obtain ⟨m, mode⟩ := Option.isSome_iff_exists.1 mode
    have calm' : needsDrain true i w s = false := needsDrain_calm (calm.imp_right .inl)
    have window' : ((s.setArbiter src).slot i).window = some w := window
    have frees := freeSlot_eq window'
    have carries : orderCarry .retire src e (s.setArbiter src) = answerOrder src e .done [] (freeSlot i (s.setArbiter src)) := by
      rw [carryRetire_eq may mode, calm', if_neg Bool.false_ne_true]
    obtain ⟨t, step, answered, rfl⟩ := exec_answers decides (retire_pass may mode (.inl calm')) (fun _ => rfl) carries
      (by rw [frees]; rfl) (by rw [frees]; rfl) (by rw [frees]; rfl)
    rw [frees] at step answered
    exact ⟨_, step, answered, rfl, rfl⟩

/-- Settles O57: the checks leave a place for the job, and the start of a drain writes window, list and entry. -/
theorem routingChangesStartDrains : Obligations.RoutingChangesStartDrains := by
  unfold Obligations.RoutingChangesStartDrains
  intro s src e i w m may now
  refine ⟨fun o c decides passes routes => ?_, fun decides mode => ?_⟩
  · obtain ⟨t, step, rfl⟩ := passes.drains may decides routes now
    obtain ⟨running, next, code⟩ := decides
    cases c <;> exact ⟨_, step, orderTaken_takeOrder next rfl rfl rfl, rfl, rfl, rfl⟩
  · obtain ⟨live, traffic, room⟩ := now
    have needs : needsDrain true i w s = true := (needsDrain_iff ..).2 ⟨rfl, live, traffic⟩
    have step := exec_passed decides (retire_pass may mode (.inr room))
    rw [carryRetire_eq may mode, if_pos needs] at step
    exact ⟨_, step, orderTaken_takeOrder decides.2.1 rfl rfl rfl, rfl, rfl, rfl⟩

end Sys2Proof.Machine
end

section
/-! PROOFS. The event orders, and the view orders. -/

namespace Sys2Proof.Machine

/-! ### An occasion reaches M and the notified host (R182, R183) -/

/-- A notify that prompts no port gives M its NOTICE, or marks it owed (R182). -/
theorem notify_occasion_mgmt {before s : State} (occasion : isOccasion before s = true) :
    if s.link .mgmt = .up ∧ (s.returns .mgmt).any isNotice = false then
      (notify before none s).returns .mgmt = s.returns .mgmt ++ [.notice (activeFlags s.events)] ∧
        (notify before none s).events.noticeOwed = s.events.noticeOwed
    else (notify before none s).returns .mgmt = s.returns .mgmt ∧ (notify before none s).events.noticeOwed = true := by
  obtain ⟨returns, owed⟩ := notify_mgmt before none s
  rw [returns, owed, occasion]
  split
  · next room =>
    rw [notifyMgmt_placed (by rfl) room.1 room.2]
    exact ⟨State.setReturns_returns_self .., rfl⟩
  · next full =>
    rw [notifyMgmt_owed (by rfl) full]
    exact ⟨rfl, rfl⟩

/-- A notify that prompts no port gives the notified host its notification POST, or marks it owed, unless it is barred (R183). -/
theorem notify_occasion_host {before s : State} (occasion : isOccasion before s = true) {h : HostId}
    (setting : s.events.setting.host = some h) (unbarred : s.ports.barredHost.get h = false) :
    if s.link (.host h) = .up ∧ (s.returns (.host h)).any isNotification = false then
      (notify before none s).returns (.host h) = s.returns (.host h) ++ [composeNotification s] ∧
        (notify before none s).events.notificationOwed = s.events.notificationOwed
    else
      (notify before none s).returns (.host h) = s.returns (.host h) ∧
        (notify before none s).events.notificationOwed = true := by
  obtain ⟨returns, owed⟩ := notify_host setting before none
  rw [returns, owed, occasion]
  split
  · next room =>
    rw [notifyHost_placed (by rfl) unbarred room.1 room.2]
    exact ⟨State.setReturns_returns_self .., rfl⟩
  · next full =>
    rw [notifyHost_owed (by rfl) unbarred full]
    exact ⟨rfl, rfl⟩

/-- A host that is not notified, or is barred, gets nothing (R183). -/
theorem notify_silent_host (before : State) {s : State} {h : HostId}
    (silent : s.events.setting.host ≠ some h ∨ s.ports.barredHost.get h = true) :
    (notify before none s).returns (.host h) = s.returns (.host h) := by
  by_cases setting : s.events.setting.host = some h
  · obtain ⟨returns, _⟩ := notify_host setting before none
    rw [returns, notifyHost_quiet (by rfl) (.inr (silent.resolve_left (not_not_intro setting)))]
  · exact notify_otherHost setting before none

theorem notify_silent_owed (before : State) {s : State}
    (silent : ∀ h, s.events.setting.host = some h → s.ports.barredHost.get h = true) :
    (notify before none s).events.notificationOwed = s.events.notificationOwed := by
  cases setting : s.events.setting.host with
  | none => exact notify_noHost setting before none
  | some h =>
    obtain ⟨_, owed⟩ := notify_host setting before none
    rw [owed, notifyHost_quiet (by rfl) (.inr (silent h setting))]

theorem notify_occasionReaches {before s : State} (occasion : isOccasion before s = true) :
    OccasionReaches (activeFlags s.events) s (notify before none s) :=
  ⟨notify_occasion_mgmt occasion, fun _ setting unbarred => notify_occasion_host occasion setting unbarred,
    fun _ silent => notify_silent_host before silent, notify_silent_owed before⟩

/-- An occasion turns on links, return queues, barred flags, the setting and the owed marks alone. -/
theorem OccasionReaches.of_same {active : BitVec 12} {s u t : State} (h : OccasionReaches active s t)
    (link : u.ports.link = s.ports.link) (returns : u.ports.returns = s.ports.returns)
    (barred : u.ports.barredHost = s.ports.barredHost) (setting : u.events.setting = s.events.setting)
    (notice : u.events.noticeOwed = s.events.noticeOwed) (notification : u.events.notificationOwed = s.events.notificationOwed) :
    OccasionReaches active u t := by
  unfold OccasionReaches State.link State.returns at h ⊢
  rw [link, returns, barred, setting, notice, notification]
  exact h

/-! ### The event orders (R185 to R187) -/

/-- The flags that an enable set makes active are those it names beyond the old one. -/
theorem newlyEnabled (pending enabled new : BitVec 12) :
    pending &&& new &&& ~~~(pending &&& enabled) = pending &&& new &&& ~~~enabled := by
  ext i
  simp only [BitVec.getElem_and, BitVec.getElem_not]
  cases pending[i] <;> rfl

theorem driveNote_noteN (e : Events) : (driveNote e).noteN = true ↔ e.pending &&& e.enabled ≠ 0 := by
  simp [driveNote, activeFlags]

section events

variable {s : State} {e : OrderEntry}

theorem exec_readEvents (decides : Decides s .mgmt e .readEvents) :
    ∃ t, exec .readEvents s = .next t ∧ OrderAnswered .mgmt e .done (eventBytes s.events) s t ∧
      t = answerOrder .mgmt e .done (eventBytes s.events) (s.setArbiter .mgmt) :=
  exec_answers decides (orderChecks_setting rfl rfl nofun rfl rfl) (fun _ => rfl) rfl rfl rfl rfl

theorem exec_clearEvents (decides : Decides s .mgmt e .clearEvents) :
    ∃ t, exec .clearEvents s = .next t ∧
      OrderAnswered .mgmt e .done (beBytes 2 (flagSetOf e.block &&& s.events.pending).toNat) s t ∧
      t = answerOrder .mgmt e .done (beBytes 2 (flagSetOf e.block &&& s.events.pending).toNat)
        ((s.setArbiter .mgmt).setEvents (clearFlags (flagSetOf e.block) s.events)) :=
  exec_answers decides (orderChecks_setting rfl rfl nofun rfl rfl) (fun _ => rfl) rfl rfl rfl rfl

/-- The answer of a SET_EVENT_ENABLES, before its occasion (R187). -/
def enablesAnswered (e : OrderEntry) (s : State) : State :=
  answerOrder .mgmt e .done (beBytes 2 s.events.enabled.toNat)
    ((s.setArbiter .mgmt).setEvents (enableFlags (flagSetOf e.block) s.events))

theorem exec_setEventEnables (decides : Decides s .mgmt e .setEventEnables) :
    exec .setEventEnables s = .next (notify s none (enablesAnswered e s)) :=
  exec_passed decides (orderChecks_setting rfl rfl nofun rfl rfl)

theorem isOccasion_enablesAnswered (e : OrderEntry) (s : State) :
    isOccasion s (enablesAnswered e s) = true ↔ s.events.pending &&& flagSetOf e.block &&& ~~~s.events.enabled ≠ 0 := by
  rw [← newlyEnabled]
  exact bne_iff_ne

/-- What SET_EVENT_ENABLES leaves of the flags, whatever notices follow (R181, R187). -/
structure EnablesWritten (fs : BitVec 12) (s t : State) : Prop where
  enabled : t.events.enabled = fs
  pending : t.events.pending = s.events.pending
  details : t.events.details = s.events.details
  setting : t.events.setting = s.events.setting
  noteN : t.events.noteN = true ↔ t.events.pending &&& t.events.enabled ≠ 0

theorem enablesWritten_answered (e : OrderEntry) (s : State) : EnablesWritten (flagSetOf e.block) s (enablesAnswered e s) :=
  ⟨rfl, rfl, rfl, rfl, driveNote_noteN { s.events with enabled := flagSetOf e.block }⟩

theorem EnablesWritten.notified {fs : BitVec 12} {s t : State} (h : EnablesWritten fs s t) (before : State) (prompt : Option Port) :
    EnablesWritten fs s (notify before prompt t) := by
  have events := notify_events before prompt t
  constructor <;> rw [events]
  · exact h.enabled
  · exact h.pending
  · exact h.details
  · exact h.setting
  · exact h.noteN

end events

/-- Settles O59: the answer stands before the occasion that SET_EVENT_ENABLES may be. -/
theorem eventOrdersAct : Obligations.EventOrdersAct := by
  unfold Obligations.EventOrdersAct
  intro s e
  refine ⟨fun decides => ?_, fun decides => ?_, fun decides => ?_⟩
  · obtain ⟨t, step, answered, rfl⟩ := exec_readEvents decides
    exact ⟨_, step, answered, rfl⟩
  · obtain ⟨t, step, answered, rfl⟩ := exec_clearEvents decides
    refine ⟨_, step, answered, rfl, fun i => ?_, driveNote_noteN _, rfl⟩
    exact Vector.getElem_ofFn i.isLt
  · obtain ⟨older, newer, queued, queue, updated⟩ := updateQueued (fun e => { e with state := .answered }) decides.2.1
    have written := (enablesWritten_answered e s).notified s none
    have frame := notify_frame s none (enablesAnswered e s)
    refine ⟨_, _, exec_setEventEnables decides, rfl, ⟨older, newer, queued, queue, ?_⟩, written.enabled,
      written.pending, written.details, written.setting, written.noteN, fun calm => ?_, fun occasion => ?_, ?_⟩
    · rw [notify_orders, ← updated]
      exact State.setOrders_orders_self ..
    · have quiet : isOccasion s (enablesAnswered e s) = false := by
        rw [← Bool.not_eq_true, isOccasion_enablesAnswered, not_not]
        exact calm
      rw [notify_quiet _ _ quiet]
      exact ⟨rfl, rfl, rfl⟩
    · have reaches := notify_occasionReaches ((isOccasion_enablesAnswered e s).2 occasion)
      have active : activeFlags (enablesAnswered e s).events = s.events.pending &&& flagSetOf e.block := rfl
      rw [active] at reaches
      exact reaches.of_same rfl rfl rfl rfl rfl rfl
    · have orders : (notify s none (enablesAnswered e s)).orders .mgmt = (enablesAnswered e s).orders .mgmt := notify_orders ..
      rw [orders, frame]
      rfl

/-! ### Which slot an address belongs to (R17, R19) -/

theorem any_holds_iff (x : Slot) (a : Nat) : ((slotReserved x).any fun p => p.holds a) = true ↔ SlotReserves x a := by
  simp [SlotReserves, Span.holds]

theorem findSlot_eq_some {s : State} {i : Fin Config.slots} {a : Nat} (disjoint : RangesDisjoint s) (h : ReservedAt s i a) :
    findSlot s a = some i := by
  refine find?_finRange_eq_some ((any_holds_iff _ _).2 h) fun k below => ?_
  rw [← Bool.not_eq_true, any_holds_iff]
  exact fun other => absurd (disjoint k i a other h) (ne_of_lt below)

theorem findSlot_eq_none {s : State} {a : Nat} (h : ∀ i, ¬ReservedAt s i a) : findSlot s a = none := by
  unfold findSlot
  rw [List.find?_eq_none]
  exact fun i _ holds => h i ((any_holds_iff _ _).1 holds)

/-! ### The windows that LIST takes from (R20, R100) -/

theorem insertListed_eq (x : Listed) (l : List Listed) :
    insertListed x l = l.orderedInsert (fun a b => a.base.toNat ≤ b.base.toNat) x := by
  induction l with
  | nil => rfl
  | cons y ys ih => rw [insertListed, List.orderedInsert, ih]

/-- What LIST takes of one slot. -/
def listedSlot (s : State) (start : Addr) (i : Fin Config.slots) : Option Listed :=
  match (s.slot i).window with
  | some w => if start.toNat ≤ w.base.toNat then some ⟨⟨i, (s.slot i).generation⟩, w.base⟩ else none
  | none => none

theorem listedSlot_eq_some_iff (s : State) (start : Addr) (i : Fin Config.slots) (x : Listed) :
    listedSlot s start i = some x ↔
      x.handle.slot = i ∧ ∃ w, (s.slot x.handle.slot).window = some w ∧
        x.handle.generation = (s.slot x.handle.slot).generation ∧ x.base = w.base ∧ start.toNat ≤ w.base.toNat := by
  obtain ⟨⟨slot, generation⟩, base⟩ := x
  unfold listedSlot
  constructor
  · intro h
    split at h
    · next w window =>
      split at h
      · next above =>
        cases h
        exact ⟨rfl, w, window, rfl, rfl, above⟩
      · cases h
    · cases h
  · rintro ⟨rfl, w, window, named, rfl, above⟩
    dsimp only at window named above ⊢
    rw [window, named]
    exact if_pos above

theorem listedFrom_eq (s : State) (start : Addr) :
    listedFrom s start =
      ((List.finRange Config.slots).filterMap (listedSlot s start)).insertionSort (fun a b => a.base.toNat ≤ b.base.toNat) := by
  have inserts : insertListed = List.orderedInsert (fun a b => a.base.toNat ≤ b.base.toNat) :=
    funext fun x => funext fun l => insertListed_eq x l
  unfold listedFrom List.insertionSort
  rw [inserts]
  rfl

theorem mem_listedFrom_iff (s : State) (start : Addr) (x : Listed) :
    x ∈ listedFrom s start ↔
      ∃ w, (s.slot x.handle.slot).window = some w ∧ x.handle.generation = (s.slot x.handle.slot).generation ∧ x.base = w.base ∧
        start.toNat ≤ w.base.toNat := by
  rw [listedFrom_eq, List.mem_insertionSort, List.mem_filterMap]
  simp only [listedSlot_eq_some_iff]
  exact ⟨fun ⟨_, _, _, h⟩ => h, fun h => ⟨_, List.mem_finRange _, rfl, h⟩⟩

theorem listedFrom_sorted (s : State) (start : Addr) :
    (listedFrom s start).Pairwise fun x y => x.base.toNat ≤ y.base.toNat := by
  have total : Std.Total fun x y : Listed => x.base.toNat ≤ y.base.toNat := ⟨fun _ _ => Nat.le_total ..⟩
  have trans : IsTrans Listed fun x y => x.base.toNat ≤ y.base.toNat := ⟨fun _ _ _ => Nat.le_trans⟩
  rw [listedFrom_eq]
  exact List.pairwise_insertionSort _ _

theorem listedFrom_nodup (s : State) (start : Addr) : (listedFrom s start).Nodup := by
  rw [listedFrom_eq, (List.perm_insertionSort ..).nodup_iff]
  refine (List.nodup_finRange _).filterMap fun i k x hi hk => ?_
  obtain ⟨slot, _⟩ := (listedSlot_eq_some_iff ..).1 hi
  obtain ⟨slot', _⟩ := (listedSlot_eq_some_iff ..).1 hk
  exact slot.symm.trans slot'

/-- A window that fits reserves its base. -/
theorem reservedAt_base {s : State} {i : Fin Config.slots} {w : Window} (fits : WindowsFit s)
    (window : (s.slot i).window = some w) : ReservedAt s i w.base.toNat := by
  refine (slotReserves_iff window _).2 ⟨_, currentSpan_mem_reserved w, Nat.le_refl _, ?_⟩
  exact (fits i w window).1.ordered

/-- Two listed windows with one base are one, where reserved ranges are disjoint. -/
theorem listed_eq_of_base {s : State} {start : Addr} (disjoint : RangesDisjoint s) (fits : WindowsFit s) {x y : Listed}
    (hx : x ∈ listedFrom s start) (hy : y ∈ listedFrom s start) (same : x.base = y.base) : x = y := by
  obtain ⟨⟨i, gi⟩, bx⟩ := x
  obtain ⟨⟨j, gj⟩, bY⟩ := y
  obtain ⟨w, window, generation, base, _⟩ := (mem_listedFrom_iff ..).1 hx
  obtain ⟨v, window', generation', base', _⟩ := (mem_listedFrom_iff ..).1 hy
  dsimp only at *
  have at_i := reservedAt_base fits window
  have at_j := reservedAt_base fits window'
  rw [← base] at at_i
  rw [← base', ← same] at at_j
  cases disjoint i j _ at_i at_j
  rw [generation, generation', same]

theorem listedFrom_increasing {s : State} (start : Addr) (disjoint : RangesDisjoint s) (fits : WindowsFit s) :
    (listedFrom s start).Pairwise fun x y => x.base.toNat < y.base.toNat := by
  refine ((listedFrom_sorted s start).and (listedFrom_nodup s start)).imp_of_mem fun hx hy ⟨le, ne⟩ => ?_
  exact lt_of_le_of_ne le fun same => ne (listed_eq_of_base disjoint fits hx hy (BitVec.eq_of_toNat_eq same))

/-! ### The results of the view orders (R98 to R100, R190) -/

theorem length_beBytes (n v : Nat) : (beBytes n v).length = n := by
  induction n with
  | zero => rfl
  | succ n ih => rw [beBytes, List.length_cons, ih]

theorem length_statusBytes (s : State) : (statusBytes s).length = 43 := by
  simp [statusBytes, length_beBytes, allPorts, HostId.all, TargetId.all, portBytes]

theorem freeSlots_eq (s : State) : freeSlots s = (List.finRange 64).countP fun i => (s.slot i).window == none :=
  List.countP_congr fun i _ => by cases (s.slot i).window <;> simp

theorem statusBytes_head (s : State) :
    (statusBytes s).take 10 =
      [0x5A, 0x31, 0x04, 0x64, 1, BitVec.ofNat 8 ((List.finRange 64).countP fun i => (s.slot i).window == none),
       BitVec.ofNat 8 s.dir.poolFree, BitVec.ofNat 8 ((List.finRange 48).countP fun i => (s.entry i).state == .free),
       BitVec.ofNat 8 s.eng.drains.length, if s.eng.frozen then 1 else 0] := by
  have vendor : beBytes 2 Config.vendorCode.toNat = [0x5A, 0x31] := by decide
  have part : beBytes 2 Config.partCode.toNat = [0x04, 0x64] := by decide
  rw [← freeSlots_eq]
  unfold statusBytes
  rw [vendor, part]
  rfl

theorem drainBytes_settled {s : State} {i : Fin Config.slots} {w : Window} (h : w.state = .staged ∨ w.state = .live) :
    drainBytes s i w = [] := by
  unfold drainBytes
  rcases h with staged | live
  · rw [staged]
  · rw [live]

theorem jobOf_eq {s : State} (follow : DrainsFollowWindows s) {j : DrainJob} (job : j ∈ s.eng.drains) :
    jobOf s j.handle.slot = some j := by
  unfold jobOf
  cases found : s.eng.drains.find? fun k => k.handle.slot == j.handle.slot with
  | none => exact absurd (List.find?_eq_none.1 found j job) (by simp)
  | some k =>
    have slot : k.handle.slot = j.handle.slot := by simpa using List.find?_some found
    rw [List.inj_on_of_nodup_map follow.distinct (List.mem_of_find?_eq_some found) job slot]

theorem drainBytes_retire {s : State} {w : Window} (follow : DrainsFollowWindows s) {j : DrainJob} (job : j ∈ s.eng.drains)
    (state : w.state = .drainRetire) : drainBytes s j.handle.slot w = [1, modeCode j.mode] := by
  unfold drainBytes
  rw [state, jobOf_eq follow job]
  rfl

theorem drainBytes_change {s : State} {w : Window} (follow : DrainsFollowWindows s) {j : DrainJob} (job : j ∈ s.eng.drains)
    {c : PendingChange} (state : w.state = .drainChange c) :
    drainBytes s j.handle.slot w = [2, modeCode j.mode] ++ changeBytes c := by
  unfold drainBytes
  rw [state, jobOf_eq follow job]
  rfl

theorem findBytes_reserved {s : State} {i : Fin Config.slots} {w : Window} {a : Addr} (disjoint : RangesDisjoint s)
    (window : (s.slot i).window = some w) (h : ReservedAt s i a.toNat) :
    findBytes s a = [1, BitVec.ofNat 8 i.val, (s.slot i).generation, windowStateCode w.state] := by
  unfold findBytes
  rw [findSlot_eq_some disjoint h]
  dsimp only
  rw [window]
  rfl

theorem findBytes_unclaimed {s : State} {a : Addr} (h : ∀ i, ¬ReservedAt s i a.toNat) :
    findBytes s a = [2, if s.dir.fallback = none then 0 else 1] := by
  unfold findBytes
  rw [findSlot_eq_none h]
  cases s.dir.fallback <;> rfl

theorem listBytes_eq (s : State) (start : Addr) :
    listBytes s start =
      [BitVec.ofNat 8 (min 8 (listedFrom s start).length)] ++
        ((listedFrom s start).take 8).flatMap (fun x =>
          [BitVec.ofNat 8 x.handle.slot.val, x.handle.generation] ++ beBytes 6 x.base.toNat) ++
        [if 8 < (listedFrom s start).length then 1 else 0] := by
  have batch : ((listedFrom s start).take Config.listBatch).length = min 8 (listedFrom s start).length := List.length_take
  have more : decide (min 8 (listedFrom s start).length < (listedFrom s start).length) = decide (8 < (listedFrom s start).length) :=
    decide_eq_decide.2 (by omega)
  unfold listBytes
  dsimp only
  rw [batch, more]
  simp only [markCode, decide_eq_true_eq]
  rfl

/-! ### The view orders (R98 to R100, R190) -/

section views

variable {s : State} {src : Source} {e : OrderEntry} (may : MayView s src)
include may

/-- A view order that names no window is answered at once. -/
theorem exec_view {o : OrderName} {rs : List Byte} (decides : Decides s src e o) (plain : windowRow o = none)
    (view : o.cls = .view) (calm : o.changes = false) (operands : plainOperands o = noPlainCheck)
    (resources : plainResources o = noPlainCheck) (ends : ∀ t, orderEnd o s t = t)
    (carries : orderCarry o src e (s.setArbiter src) = answerOrder src e .done rs (s.setArbiter src)) :
    ∃ t, exec o.command s = .next t ∧ OrderAnswered src e .done rs s t ∧ AnswerFrame s t := by
  have rights : MayOrder (s.setArbiter src) src o := by
    unfold MayOrder
    rw [view]
    exact may
  obtain ⟨t, step, answered, rfl⟩ := exec_answers decides
    (orderChecks_pass plain rights (fun changes => absurd (calm.symm.trans changes) Bool.false_ne_true) (by rw [operands]; rfl)
      (by rw [resources]; rfl)) ends carries rfl rfl rfl
  exact ⟨_, step, answered, rfl⟩

theorem exec_query {i : Fin Config.slots} {w : Window} (decides : Decides s src e .query) (names : NamesWindow s e.block i w) :
    ∃ t, exec .query s = .next t ∧ OrderAnswered src e .done (queryBytes s i w) s t ∧ AnswerFrame s t := by
  have names' : NamesWindow (s.setArbiter src) e.block i w := names
  have rights : MayOrder (s.setArbiter src) src .query := may
  have pass : orderChecks .query src e (s.setArbiter src) = none := orderChecks_found rfl rights nofun names'
  have carries : orderCarry .query src e (s.setArbiter src) = answerOrder src e .done (queryBytes s i w) (s.setArbiter src) := by
    change carryQuery src e _ = _
    unfold carryQuery
    rw [resolve_names names']
    rfl
  obtain ⟨t, step, answered, rfl⟩ := exec_answers decides pass (fun _ => rfl) carries rfl rfl rfl
  exact ⟨_, step, answered, rfl⟩

end views

/-- Settles O53: a view order answers with the bytes of what it reads, and the second part says what bytes those are. -/
theorem viewOrdersAnswer : Obligations.ViewOrdersAnswer := by
  unfold Obligations.ViewOrdersAnswer
  refine ⟨fun s src e may => ⟨fun i w decides names => exec_query may decides names,
    fun decides => exec_view may decides rfl rfl rfl rfl rfl (fun _ => rfl) rfl,
    fun decides => exec_view may decides rfl rfl rfl rfl rfl (fun _ => rfl) rfl,
    fun decides => exec_view may decides rfl rfl rfl rfl rfl (fun _ => rfl) rfl⟩, fun s start => ?_⟩
  refine ⟨length_statusBytes s, statusBytes_head s, fun i w window => ⟨rfl, drainBytes_settled, ?_⟩,
    fun i w disjoint window => findBytes_reserved disjoint window, findBytes_unclaimed, listBytes_eq s start,
    listedFrom_increasing start, listedFrom_sorted s start, mem_listedFrom_iff s start⟩
  rintro j job follow rfl
  exact ⟨drainBytes_retire follow job, fun c => drainBytes_change follow job⟩

end Sys2Proof.Machine
end

section
/-! PROOFS. The forward attempt on a head before its first attempt. -/

namespace Sys2Proof.Machine

/-! ### The attempt on a fresh head (R31, R39, R40) -/

theorem duplicateTag_iff (s : State) (h : HostId) (tag : BitVec 8) : DuplicateTag s h tag ↔ tagInUse s h tag = true := by
  rw [← Bool.not_eq_false, tagInUse_eq_false_iff]
  simp [DuplicateTag]

theorem tagInUse_fresh {s : State} {h : HostId} {tag : BitVec 8} (fresh : ¬DuplicateTag s h tag) : tagInUse s h tag = false := by
  rw [← Bool.not_eq_true, ← duplicateTag_iff]
  exact fresh

/-- A mark that is written over itself. -/
theorem setMark_eq {s : State} {h : HostId} {m : WaitMark} (mark : s.mark h = m) : s.setMark h m = s := by
  have kept : s.fwd.waiting.set h (s.fwd.waiting.get h) = s.fwd.waiting := PerHost.set_get ..
  unfold State.mark at mark
  rw [mark] at kept
  unfold State.setMark
  rw [kept]

/-- What the attempt on a head makes of the state, by its plan. -/
def attemptPlan (h : HostId) (offered : Option (Fin Config.replyEntries)) (plan : Plan) (s : State) : State :=
  if lacking s plan = .clear then carryOut h offered plan (takeHead h s) else s.setMark h (lacking s plan)

theorem attempt_head {s : State} {h : HostId} {r : Request} (offered : Option (Fin Config.replyEntries)) (mark : s.mark h = .clear)
    (head : (s.ingress h).head? = some r) : attempt h offered s = attemptPlan h offered (planOf s h r) s := by
  obtain ⟨rest, queue⟩ := List.head?_eq_some_iff.1 head
  unfold attempt
  rw [setMark_eq mark]
  dsimp only
  rw [queue]
  rfl

theorem exec_forwardAttempt {s : State} {h : HostId} {r : Request} (fresh : FreshHead s h r) :
    exec (.forwardAttempt h) s = .next (notify s none (attemptPlan h none (planOf s h r) s)) := by
  obtain ⟨running, mark, head⟩ := fresh
  change execForwardAttempt h s = _
  unfold execForwardAttempt
  rw [if_pos ⟨(isRunning_iff s).2 running, mark⟩, attempt_head none mark head]

theorem attemptPlan_carried {s : State} {h : HostId} {plan : Plan} {offered : Option (Fin Config.replyEntries)}
    (free : lacking s plan = .clear) : attemptPlan h offered plan s = carryOut h offered plan (takeHead h s) := if_pos free

/-! ### Plans (R32, R39) -/

theorem planOf_duplicate {s : State} {h : HostId} {tag : BitVec 8} (a : Addr) (n : Nat) (dup : DuplicateTag s h tag) :
    planOf s h (.fetch tag a n) = .discard := by
  unfold planOf
  exact if_pos ((duplicateTag_iff ..).1 dup)

theorem planOf_fetch_refused {s : State} {h : HostId} {tag : BitVec 8} {a : Addr} {n : Nat} {st : Status}
    (fresh : ¬DuplicateTag s h tag) (refused : lookup s h (.fetch tag a n) = .refused st) :
    planOf s h (.fetch tag a n) = .answer tag st := by
  unfold planOf
  dsimp only
  rw [tagInUse_fresh fresh, if_neg Bool.false_ne_true, refused]

theorem planOf_fetch_forward {s : State} {h : HostId} {tag : BitVec 8} {a : Addr} {n : Nat} {hop : Hop}
    (fresh : ¬DuplicateTag s h tag) (forward : lookup s h (.fetch tag a n) = .forward hop) :
    planOf s h (.fetch tag a n) = .sendFetch tag n hop := by
  unfold planOf
  dsimp only
  rw [tagInUse_fresh fresh, if_neg Bool.false_ne_true, forward]

theorem planOf_post_refused {s : State} {h : HostId} {a : Addr} {d : List Byte} {st : Status}
    (refused : lookup s h (.post a d) = .refused st) : planOf s h (.post a d) = .drop := by
  unfold planOf
  dsimp only
  rw [refused]

theorem planOf_post_forward {s : State} {h : HostId} {a : Addr} {d : List Byte} {hop : Hop}
    (forward : lookup s h (.post a d) = .forward hop) : planOf s h (.post a d) = .sendPost d hop := by
  unfold planOf
  dsimp only
  rw [forward]

/-! ### Heads that leave with a flag (R30, R32, R45) -/

theorem HeadTaken.notified {h : HostId} {s t : State} (taken : HeadTaken h s t) (before : State) (prompt : Option Port) :
    HeadTaken h s (notify before prompt t) := by
  obtain ⟨fwd, granted, sent⟩ := taken
  exact ⟨by rw [notify_fwd, fwd], by rw [notify_grantedRequest, granted], by rw [notify_sent, sent]⟩

theorem headTaken_takeHead (h : HostId) (s : State) : HeadTaken h s (takeHead h s) := ⟨rfl, rfl, rfl⟩

/-- A head that leaves with a flag and no answer. -/
theorem headLeaves_setFlag (f : Flag) (h : HostId) (s : State) :
    HeadTaken h s (notify s none (setFlag f (.host h) (takeHead h s))) ∧
      FlagRaised f (portMask (.host h)) s (notify s none (setFlag f (.host h) (takeHead h s))) ∧
      NoticesOnly s (notify s none (setFlag f (.host h) (takeHead h s))) ∧
      HeadFrame s (notify s none (setFlag f (.host h) (takeHead h s))) := by
  have taken : HeadTaken h s (setFlag f (.host h) (takeHead h s)) := headTaken_takeHead h s
  refine ⟨taken.notified s none, notify_flagRaised _ _ _ (flagRaised_raise _ _ _ _ rfl),
    (notify_noticesOnly _ _ _).congr_left rfl, ?_⟩
  unfold HeadFrame
  rw [notify_frame]
  rfl

/-- Settles O36: neither plan needs a resource. -/
theorem headLeavesUnanswered : Obligations.HeadLeavesUnanswered := by
  unfold Obligations.HeadLeavesUnanswered
  intro s h r fresh
  refine ⟨fun tag a n hr dup => ?_, fun a d st hr refused => ?_⟩
  · subst hr
    have step := exec_forwardAttempt fresh
    rw [planOf_duplicate a n dup, attemptPlan_carried rfl] at step
    exact ⟨_, step, headLeaves_setFlag .protocol h s⟩
  · subst hr
    have step := exec_forwardAttempt fresh
    rw [planOf_post_refused refused, attemptPlan_carried rfl] at step
    exact ⟨_, step, headLeaves_setFlag .postRefused h s⟩

/-! ### Fetches that are answered or forwarded (R41, R44, R53) -/

theorem lowestFree_eq {s : State} {i : Fin Config.replyEntries} (lowest : LowestFree s i) : lowestFree s = some i := by
  obtain ⟨free, below⟩ := lowest
  refine find?_finRange_eq_some ((isFree_iff _).2 free) fun k hk => ?_
  rw [← Bool.not_eq_true, isFree_iff]
  exact below k hk

theorem PerTarget.set_replicate {α : Type} (x : α) (g : TargetId) : (PerTarget.replicate x).set g x = PerTarget.replicate x := by
  cases g <;> rfl

theorem egressFull_room {s : State} {g : TargetId} (room : (s.egress g).length < 16) : egressFull s g = false :=
  decide_eq_false (Nat.not_le.2 room)

/-- Settles O37: an answered FETCH needs an entry alone. -/
theorem refusedFetchAnswered : Obligations.RefusedFetchAnswered := by
  unfold Obligations.RefusedFetchAnswered
  intro s h tag a n st i head fresh refused lowest
  have entry : lowestFree s = some i := lowestFree_eq lowest
  have free : lacking s (.answer tag st) = .clear := by
    unfold lacking
    rw [entry]
    rfl
  have carried : carryOut h none (.answer tag st) (takeHead h s) = answerRefused h tag st i (takeHead h s) := by
    have entry' : entryFor (takeHead h s) none = some i := entry
    unfold carryOut
    dsimp only
    rw [entry']
  have step := exec_forwardAttempt head
  rw [planOf_fetch_refused fresh refused, attemptPlan_carried free, carried, notify_same _ _ (by rfl)] at step
  exact ⟨_, step, ⟨rfl, rfl, rfl⟩, rfl, rfl, rfl⟩

/-- What a count that rises by one leaves. -/
theorem raiseCount_spec (r : Route) (s : State) :
    CountChanges r (· + 1) s (raiseCount r s) ∧ raiseCount r s = { s with dir := (raiseCount r s).dir } := by
  cases r <;> exact ⟨rfl, rfl⟩

/-- A count's change turns on the directory alone. -/
theorem CountChanges.of_dir {r : Route} {f : Nat → Nat} {s t u v : State} (h : CountChanges r f s t) (before : u.dir = s.dir)
    (after : v.dir = t.dir) : CountChanges r f u v := by
  unfold CountChanges at h ⊢
  unfold State.slot at h ⊢
  rw [before, after]
  exact h

/-- Settles O38: a forwarded FETCH needs an entry and a place. -/
theorem fetchIsForwarded : Obligations.FetchIsForwarded := by
  unfold Obligations.FetchIsForwarded
  intro s h tag a n hop i head fresh forward lowest room
  have entry : lowestFree s = some i := lowestFree_eq lowest
  have free : lacking s (.sendFetch tag n hop) = .clear := by
    unfold lacking
    dsimp only
    rw [entry, egressFull_room room, PerTarget.set_replicate]
    rfl
  have carried : carryOut h none (.sendFetch tag n hop) (takeHead h s) = forwardFetch h tag n hop i (takeHead h s) := by
    have entry' : entryFor (takeHead h s) none = some i := entry
    unfold carryOut
    dsimp only
    rw [entry']
  have step := exec_forwardAttempt head
  rw [planOf_fetch_forward fresh forward, attemptPlan_carried free, carried] at step
  obtain ⟨rises, frame⟩ := raiseCount_spec hop.route
    (pushEgress hop.target (.fetch i (s.entry i).epoch hop.address n)
      ((takeHead h s).setEntry i ⟨(s.entry i).epoch,
        .waiting ⟨h, tag, s.ports.session.get h, false, n, hop.route, hop.target, s.eng.replyLimit⟩⟩))
  have made : forwardFetch h tag n hop i (takeHead h s) = _ := frame
  have quiet : (forwardFetch h tag n hop i (takeHead h s)).events = s.events := by rw [made]; rfl
  rw [notify_same _ _ quiet] at step
  refine ⟨_, step, ?_, ?_, ?_, rises.of_dir rfl rfl, ?_⟩
  · rw [made]; exact ⟨rfl, rfl, rfl⟩
  · rw [made]; rfl
  · rw [made]; rfl
  · rw [made]; rfl

/-! ### Posts that are forwarded (R42, R109) -/

theorem targetOpen_iff (g : TargetId) (s : State) :
    targetOpen g s = true ↔ s.link (.target g) = .up ∧ s.ports.barredTarget.get g = false := by
  simp [targetOpen, isUp]

theorem copyPort_mirrorless {s : State} {hop : Hop} (none : hop.mirror = none) : copyPort s hop = Option.none := by
  unfold copyPort
  rw [none]

theorem copyPort_of_open {s : State} {hop : Hop} {m : TargetId} (mirror : hop.mirror = some m) (opens : targetOpen m s = true) :
    copyPort s hop = some m := by
  unfold copyPort
  rw [mirror]
  exact if_pos opens

theorem copyPort_of_closed {s : State} {hop : Hop} {m : TargetId} (mirror : hop.mirror = some m) (closed : targetOpen m s = false) :
    copyPort s hop = none := by
  unfold copyPort
  rw [mirror]
  exact if_neg (by rw [closed]; exact Bool.false_ne_true)

theorem skippedPort_mirrorless {s : State} {hop : Hop} (none : hop.mirror = none) : skippedPort s hop = Option.none := by
  unfold skippedPort
  rw [none]

theorem skippedPort_of_closed {s : State} {hop : Hop} {m : TargetId} (mirror : hop.mirror = some m)
    (closed : targetOpen m s = false) : skippedPort s hop = some m := by
  unfold skippedPort
  rw [mirror]
  exact if_neg (by rw [closed]; exact Bool.false_ne_true)

theorem forwardPost_alone {h : HostId} {d : List Byte} {hop : Hop} {s : State} (copy : copyPort s hop = none)
    (skip : skippedPort s hop = none) : forwardPost h d hop s = placePost h d hop hop.target s := by
  unfold forwardPost
  rw [copy, skip]

theorem forwardPost_copied {h : HostId} {d : List Byte} {hop : Hop} {s : State} {m : TargetId} (copy : copyPort s hop = some m) :
    forwardPost h d hop s = placePost h d hop m (placePost h d hop hop.target s) := by
  unfold forwardPost
  rw [copy]

theorem forwardPost_skipped {h : HostId} {d : List Byte} {hop : Hop} {s : State} {m : TargetId} (copy : copyPort s hop = none)
    (skip : skippedPort s hop = some m) :
    forwardPost h d hop s = setFlag .mirrorSkipped (.target m) (placePost h d hop hop.target s) := by
  unfold forwardPost
  rw [copy, skip]

/-- A POST that lacks no place: neither at its target nor, where it is to be copied, at the mirror port (R39). -/
theorem lacking_sendPost {s : State} {d : List Byte} {hop : Hop} (room : (s.egress hop.target).length < 16)
    (mirror : ∀ m, copyPort s hop = some m → (s.egress m).length < 16) : lacking s (.sendPost d hop) = .clear := by
  unfold lacking
  dsimp only
  rw [egressFull_room room, PerTarget.set_replicate]
  split
  · next m copy =>
    rw [egressFull_room (mirror m copy), PerTarget.set_replicate]
    rfl
  · rfl

/-- What a POST's entry into one queue leaves (R21, R42). -/
theorem placePost_spec (h : HostId) (d : List Byte) (hop : Hop) (g : TargetId) (s : State) :
    CountChanges hop.route (· + 1) s (placePost h d hop g s) ∧
      placePost h d hop g s = { s with
        dir := (placePost h d hop g s).dir
        ports := { s.ports with egress := s.ports.egress.set g (s.egress g ++ [.post hop.route h hop.address d]) } } := by
  obtain ⟨rises, frame⟩ := raiseCount_spec hop.route (pushEgress g (.post hop.route h hop.address d) s)
  exact ⟨rises.of_dir rfl rfl, frame⟩

theorem CountChanges.trans {r : Route} {f g : Nat → Nat} {s t u : State} (a : CountChanges r f s t) (b : CountChanges r g t u) :
    CountChanges r (g ∘ f) s u := by
  cases r with
  | fallback =>
    change t.dir = _ at a
    change u.dir = _ at b
    change u.dir = _
    rw [b, a]
    rfl
  | window hd =>
    change t.dir = { s.dir with
      slots := s.dir.slots.set hd.slot.val { s.slot hd.slot with count := f (s.slot hd.slot).count } hd.slot.isLt } at a
    change u.dir = { t.dir with
      slots := t.dir.slots.set hd.slot.val { t.slot hd.slot with count := g (t.slot hd.slot).count } hd.slot.isLt } at b
    change u.dir = { s.dir with
      slots := s.dir.slots.set hd.slot.val { s.slot hd.slot with count := g (f (s.slot hd.slot).count) } hd.slot.isLt }
    have slot : t.slot hd.slot = { s.slot hd.slot with count := f (s.slot hd.slot).count } := by
      unfold State.slot
      rw [a]
      exact Vector.getElem_set_self hd.slot.isLt
    rw [b, slot, a]
    simp only [Vector.set_set]

/-- Settles O39: the mirror port decides between one queue, two, and MIRROR_SKIPPED. -/
theorem postIsForwarded : Obligations.PostIsForwarded := by
  unfold Obligations.PostIsForwarded
  intro s h a d hop head forward room
  have step := exec_forwardAttempt head
  rw [planOf_post_forward forward] at step
  have sends : carryOut h none (.sendPost d hop) (takeHead h s) = forwardPost h d hop (takeHead h s) := rfl
  obtain ⟨rises, placed⟩ := placePost_spec h d hop hop.target (takeHead h s)
  have quiet : (placePost h d hop hop.target (takeHead h s)).events = s.events := by rw [placed]; rfl
  refine ⟨fun none => ?_, fun m mirror other up unbarred place => ?_, fun m mirror closed => ?_⟩
  · have copy : copyPort s hop = Option.none := copyPort_mirrorless none
    rw [attemptPlan_carried (lacking_sendPost room fun m some => absurd (copy.symm.trans some) nofun), sends,
      forwardPost_alone (copyPort_mirrorless none) (skippedPort_mirrorless none), notify_same _ _ quiet] at step
    refine ⟨_, step, ?_, rises.of_dir rfl rfl, ?_⟩
    · rw [placed]; exact ⟨rfl, rfl, rfl⟩
    · rw [placed]; rfl
  · have copy : copyPort s hop = some m := copyPort_of_open mirror ((targetOpen_iff ..).2 ⟨up, unbarred⟩)
    have lacks : lacking s (.sendPost d hop) = .clear :=
      lacking_sendPost room fun k some => by cases copy.symm.trans some; exact place
    obtain ⟨risesAgain, copied⟩ := placePost_spec h d hop m (placePost h d hop hop.target (takeHead h s))
    have queue : (placePost h d hop hop.target (takeHead h s)).egress m = s.egress m := by
      rw [placed]
      exact PerTarget.get_set_ne _ _ other
    have both : placePost h d hop m (placePost h d hop hop.target (takeHead h s)) = { s with
        dir := (placePost h d hop m (placePost h d hop hop.target (takeHead h s))).dir
        fwd := (takeHead h s).fwd
        sent := (takeHead h s).sent
        ports := { (takeHead h s).ports with
          egress := (s.ports.egress.set hop.target (s.egress hop.target ++ [.post hop.route h hop.address d])).set m
            (s.egress m ++ [.post hop.route h hop.address d]) } } := by
      rw [queue] at copied
      refine copied.trans ?_
      rw [placed]
      rfl
    have quiet' : (placePost h d hop m (placePost h d hop hop.target (takeHead h s))).events = s.events := by rw [both]
    have copy' : copyPort (takeHead h s) hop = some m := copy
    rw [attemptPlan_carried lacks, sends, forwardPost_copied copy', notify_same _ _ quiet'] at step
    refine ⟨_, step, ?_, (rises.trans risesAgain).of_dir rfl rfl, ?_⟩
    · rw [both]; exact ⟨rfl, rfl, rfl⟩
    · rw [both]; rfl
  · have shut : targetOpen m s = false := by
      rw [← Bool.not_eq_true, targetOpen_iff]
      rintro ⟨up, unbarred⟩
      rcases closed with down | barred
      · exact down up
      · exact Bool.false_ne_true (unbarred.symm.trans barred)
    have copy : copyPort s hop = none := copyPort_of_closed mirror shut
    have copy' : copyPort (takeHead h s) hop = none := copy
    have skip : skippedPort (takeHead h s) hop = some m := skippedPort_of_closed (s := takeHead h s) mirror shut
    rw [attemptPlan_carried (lacking_sendPost room fun k some => absurd (copy.symm.trans some) nofun), sends,
      forwardPost_skipped copy' skip] at step
    have taken : HeadTaken h s (setFlag .mirrorSkipped (.target m) (placePost h d hop hop.target (takeHead h s))) := by
      rw [placed]
      exact ⟨rfl, rfl, rfl⟩
    refine ⟨_, step, taken.notified s none, rises.of_dir rfl (notify_dir ..), ?_, ?_, ?_⟩
    · exact notify_flagRaised _ _ _ (flagRaised_raise _ _ _ _ (by rw [← quiet]; rfl))
    · exact (notify_noticesOnly _ _ _).congr_left (by rw [placed]; rfl)
    · rw [notify_frame, placed]
      rfl

/-! ### Heads that wait (R39, R40) -/

theorem PerTarget.ext_get {α : Type} {a b : PerTarget α} (h : ∀ g, a.get g = b.get g) : a = b := by
  obtain ⟨a0, a1, a2, a3⟩ := a
  obtain ⟨b0, b1, b2, b3⟩ := b
  cases (h .t0 : a0 = b0)
  cases (h .t1 : a1 = b1)
  cases (h .t2 : a2 = b2)
  cases (h .t3 : a3 = b3)
  rfl

theorem lowestFree_isNone_iff (s : State) : (lowestFree s).isNone = true ↔ ¬∃ i, (s.entry i).state = .free := by
  unfold lowestFree
  rw [Option.isNone_iff_eq_none, List.find?_eq_none]
  simp only [List.mem_finRange, forall_const, isFree_iff, not_exists]

/-- A mark that names just what a rule says is the rule's mark. -/
theorem waitMark_eq {m : WaitMark} {entry : Bool} {places : PerTarget Bool} (he : m.entry = true ↔ entry = true)
    (hp : ∀ g, m.places.get g = true ↔ places.get g = true) : m = ⟨entry, places⟩ := by
  obtain ⟨e, p⟩ := m
  cases (Bool.eq_iff_iff.2 he : e = entry)
  cases (PerTarget.ext_get fun g => Bool.eq_iff_iff.2 (hp g) : p = places)
  rfl

theorem fullMark_get (s : State) (g t : TargetId) (places : PerTarget Bool) :
    (places.set g (egressFull s g)).get t = true ↔
      if t = g then Config.egressPlaces ≤ (s.egress t).length else places.get t = true := by
  rw [PerTarget.get_set]
  split
  · next same => rw [same]; exact decide_eq_true_iff
  · rfl

/-- The mark of a POST: its target's queue, and that of a mirror port which is open (R39). -/
theorem lacking_post_mark {s : State} {d : List Byte} {hop : Hop} {m : WaitMark} (entry : m.entry = false)
    (places : ∀ t, m.places.get t = true ↔
      (t = hop.target ∨ hop.mirror = some t ∧ targetOpen t s = true) ∧ Config.egressPlaces ≤ (s.egress t).length) :
    lacking s (.sendPost d hop) = m := by
  have noEntry : m.entry = true ↔ false = true := by rw [entry]
  have copies : ∀ t, (hop.mirror = some t ∧ targetOpen t s = true) ↔ copyPort s hop = some t := fun t => by
    unfold copyPort
    cases hop.mirror with
    | none => simp
    | some k =>
      simp only [Option.some.injEq]
      split
      · next opens => exact ⟨fun h => congrArg _ h.1, fun h => by cases h; exact ⟨rfl, opens⟩⟩
      · next shut => exact ⟨fun h => absurd (h.1 ▸ h.2) shut, nofun⟩
  unfold lacking
  dsimp only
  split
  · next k copy =>
    refine (waitMark_eq noEntry fun g => ?_).symm
    rw [places g, copies, copy, fullMark_get, fullMark_get, PerTarget.get_replicate]
    grind
  · next copy =>
    refine (waitMark_eq noEntry fun g => ?_).symm
    rw [places g, copies, copy, fullMark_get, PerTarget.get_replicate]
    grind

/-- The mark that R39 and R40 describe is the one the attempt writes. -/
theorem lacking_planOf {s : State} {h : HostId} {r : Request} {m : WaitMark} (lacks : LacksFor s h r m) :
    lacking s (planOf s h r) = m := by
  unfold LacksFor at lacks
  cases r with
  | fetch tag a n =>
    cases verdict : lookup s h (.fetch tag a n) with
    | refused st =>
      rw [verdict] at lacks
      obtain ⟨fresh, entry, places⟩ := lacks
      rw [planOf_fetch_refused fresh verdict]
      refine (waitMark_eq (entry.trans (lowestFree_isNone_iff s).symm) fun g => ?_).symm
      rw [places g, PerTarget.get_replicate]
    | forward hop =>
      rw [verdict] at lacks
      obtain ⟨fresh, entry, places⟩ := lacks
      rw [planOf_fetch_forward fresh verdict]
      refine (waitMark_eq (entry.trans (lowestFree_isNone_iff s).symm) fun g => ?_).symm
      rw [places g, fullMark_get, PerTarget.get_replicate]
      split
      · next same => exact and_iff_right same
      · next other => simp [other]
  | post a d =>
    cases verdict : lookup s h (.post a d) with
    | refused st =>
      rw [verdict] at lacks
      exact lacks.elim
    | forward hop =>
      rw [verdict] at lacks
      obtain ⟨entry, places⟩ := lacks
      rw [planOf_post_forward verdict]
      exact lacking_post_mark entry places

/-- Settles O40: the attempt writes the mark and no more. -/
theorem headWaits : Obligations.HeadWaits := by
  unfold Obligations.HeadWaits
  intro s h r m head lacks some
  have mark := lacking_planOf lacks
  have waits : attemptPlan h none (planOf s h r) s = s.setMark h m := by
    unfold attemptPlan
    rw [mark, if_neg some]
  rw [exec_forwardAttempt head, waits, notify_same _ _ (by rfl)]
  rfl

end Sys2Proof.Machine
end

section
/-! PROOFS. The lookup. -/

namespace Sys2Proof.Machine

/-! ### The records of a chain (R105, R107, R109) -/

theorem guardEntries_eq {chain : List ExtRecord} (kinds : (chain.map ExtRecord.kind).Nodup) {es : List (HostId × Permission)}
    (h : .guard es ∈ chain) : guardEntries chain = es := by
  unfold guardEntries
  cases found : chain.findSome? fun r => match r with
    | .guard es => some es
    | _ => none with
  | none => simpa using List.findSome?_eq_none_iff.1 found _ h
  | some es' =>
    obtain ⟨r, mem, reads⟩ := List.exists_of_findSome?_eq_some found
    split at reads
    · next es'' =>
      cases reads
      cases mem_chain_unique kinds mem h rfl
      rfl
    · cases reads

theorem mem_getD_nil {α : Type} {o : Option (List α)} {x : α} (h : x ∈ o.getD []) : ∃ l, o = some l ∧ x ∈ l := by
  cases o with
  | none => cases h
  | some l => exact ⟨l, rfl, h⟩

/-- Entries come from a GUARD record of the chain. -/
theorem mem_guardEntries {chain : List ExtRecord} {x : HostId × Permission} (h : x ∈ guardEntries chain) :
    ∃ es, .guard es ∈ chain ∧ x ∈ es := by
  obtain ⟨es, found, listed⟩ := mem_getD_nil h
  obtain ⟨r, mem, reads⟩ := List.exists_of_findSome?_eq_some found
  split at reads
  · cases reads
    exact ⟨es, mem, listed⟩
  · cases reads

theorem guardPermission_listed {chain : List ExtRecord} (kinds : (chain.map ExtRecord.kind).Nodup)
    {es : List (HostId × Permission)} (guard : .guard es ∈ chain) (distinct : (es.map Prod.fst).Nodup) {h : HostId} {p : Permission}
    (listed : (h, p) ∈ es) : guardPermission chain h = some p := by
  unfold guardPermission
  rw [guardEntries_eq kinds guard]
  cases found : es.find? fun e => e.1 == h with
  | none => exact absurd (List.find?_eq_none.1 found _ listed) (by simp)
  | some e =>
    have host : e.1 = h := by simpa using List.find?_some found
    rw [List.inj_on_of_nodup_map distinct (List.mem_of_find?_eq_some found) listed host]
    rfl

theorem guardPermission_unlisted {chain : List ExtRecord} {h : HostId} (unlisted : ∀ es p, .guard es ∈ chain → (h, p) ∉ es) :
    guardPermission chain h = none := by
  unfold guardPermission
  rw [Option.map_eq_none_iff, List.find?_eq_none]
  rintro ⟨k, p⟩ mem host
  obtain ⟨es, guard, listed⟩ := mem_guardEntries mem
  cases (beq_iff_eq.1 host : k = h)
  exact unlisted es p guard listed

theorem translateBase_none {chain : List ExtRecord} (h : ∀ b, .translate b ∉ chain) : translateBase chain = none := by
  unfold translateBase
  rw [List.findSome?_eq_none_iff]
  intro r mem
  split
  · next b => exact absurd mem (h b)
  · rfl

theorem mirrorPort_eq_some_iff {chain : List ExtRecord} (kinds : (chain.map ExtRecord.kind).Nodup) (m : TargetId) :
    mirrorPort chain = some m ↔ .mirror m ∈ chain := by
  refine ⟨fun h => ?_, mirrorPort_eq kinds⟩
  obtain ⟨r, mem, reads⟩ := List.exists_of_findSome?_eq_some h
  split at reads
  · cases reads
    exact mem
  · cases reads

/-! ### Whom a window admits, and the address sent on (R37, R43, R105, R107) -/

theorem permissionAdmits_iff (p : Permission) (k : RequestKind) :
    permissionAdmits p k = true ↔ p = .readWrite ∨ p = .read ∧ k = .fetch := by cases p <;> cases k <;> decide

theorem accessServes_iff (a : Access) (k : RequestKind) :
    accessServes a k = true ↔ a = .readWrite ∨ a = .read ∧ k = .fetch ∨ a = .write ∧ k = .post := by cases a <;> cases k <;> decide

theorem windowAdmits_listed {w : Window} {h : HostId} {k : RequestKind} (fits : FieldsFit w) {es : List (HostId × Permission)}
    {p : Permission} (guard : .guard es ∈ w.chain) (listed : (h, p) ∈ es) :
    windowAdmits w h k = true ↔ p = .readWrite ∨ p = .read ∧ k = .fetch := by
  obtain ⟨_, _, distinct⟩ := fits.guard es guard
  unfold windowAdmits
  rw [guardPermission_listed fits.kinds guard distinct listed]
  exact permissionAdmits_iff p k

theorem windowAdmits_unlisted {w : Window} {h : HostId} {k : RequestKind} (unlisted : ∀ es p, .guard es ∈ w.chain → (h, p) ∉ es) :
    windowAdmits w h k = true ↔
      w.users.getLsbD h.index = true ∧
        (w.access = .readWrite ∨ w.access = .read ∧ k = .fetch ∨ w.access = .write ∧ k = .post) := by
  unfold windowAdmits
  rw [guardPermission_unlisted unlisted]
  dsimp only
  rw [Bool.and_eq_true, accessServes_iff]

/-- The translated range ends inside the address space, so that the sum does not wrap (R104, R105). -/
theorem forwardedAddress_translated {w : Window} (fits : FieldsFit w) {b a : Addr} (record : .translate b ∈ w.chain)
    (low : w.base.toNat ≤ a.toNat) (high : a.toNat ≤ w.limit.toNat) :
    (forwardedAddress w a).toNat = b.toNat + (a.toNat - w.base.toNat) := by
  have inside := (fits.translate b record).2
  have last : Config.lastAddress = 2 ^ 48 - 1 := rfl
  unfold forwardedAddress
  rw [translateBase_eq fits.kinds record]
  dsimp only
  rw [BitVec.toNat_add, BitVec.toNat_sub_of_le low]
  omega

theorem forwardedAddress_plain {w : Window} (none : ∀ b, .translate b ∉ w.chain) (a : Addr) : forwardedAddress w a = a := by
  unfold forwardedAddress
  rw [translateBase_none none]

/-! ### The six checks (R33 to R38) -/

theorem targetOpen_eq_false_iff (g : TargetId) (s : State) :
    targetOpen g s = false ↔ s.link (.target g) ≠ .up ∨ s.ports.barredTarget.get g = true := by
  rw [← Bool.not_eq_true, targetOpen_iff, not_and_or, Bool.not_eq_false]

section checks

variable {s : State} {h : HostId} {r : Request}

theorem lookup_barred (barred : s.ports.barredHost.get h = true) : lookup s h r = .refused .barred := if_pos barred

theorem lookup_reserved {i : Fin Config.slots} {w : Window} (unbarred : s.ports.barredHost.get h = false)
    (disjoint : RangesDisjoint s) (window : (s.slot i).window = some w) (reserved : ReservedAt s i r.address.toNat) :
    lookup s h r = lookupWindow s i w h r := by
  have found : findSlot s r.span.first = some i := findSlot_eq_some disjoint reserved
  unfold lookup
  rw [if_neg (by rw [unbarred]; exact Bool.false_ne_true), found]
  dsimp only
  rw [window]

theorem lookup_unclaimed (unbarred : s.ports.barredHost.get h = false) (free : ∀ i, ¬ReservedAt s i r.address.toNat) :
    lookup s h r =
      if meetsReserved s r.span || decide (r.span.last > Config.lastAddress) then .refused .straddle
      else lookupFallback s r.address := by
  have found : findSlot s r.span.first = none := findSlot_eq_none free
  unfold lookup
  rw [if_neg (by rw [unbarred]; exact Bool.false_ne_true), found]

theorem meetsReserved_iff (s : State) (q : Span) :
    meetsReserved s q = true ↔ ∃ i, ∃ p ∈ slotReserved (s.slot i), p.first ≤ q.last ∧ q.first ≤ p.last := by
  simp [meetsReserved, Span.meets]

theorem lookupWindow_draining {i : Fin Config.slots} {w : Window} (draining : isDraining w.state = true) :
    lookupWindow s i w h r = .refused .closing := by
  unfold lookupWindow
  split
  · next state => rw [state] at draining; cases draining
  · rfl
  · rfl
  · next state => rw [state] at draining; cases draining

/-- The fourth to sixth checks, on a LIVE window (R36 to R38). -/
theorem lookupWindow_live {i : Fin Config.slots} {w : Window} (live : w.state = .live) :
    lookupWindow s i w h r =
      if r.span.last > w.limit.toNat then .refused .straddle
      else if !windowAdmits w h r.kind then .refused .denied
      else if !targetOpen w.target s then .refused .portDown
      else .forward ⟨.window ⟨i, (s.slot i).generation⟩, w.target, forwardedAddress w r.address, mirrorPort w.chain⟩ := by
  unfold lookupWindow
  rw [live]

theorem lookupFallback_some {g : TargetId} (fallback : s.dir.fallback = some g) (a : Addr) :
    lookupFallback s a = if targetOpen g s then .forward ⟨.fallback, g, a, none⟩ else .refused .portDown := by
  unfold lookupFallback
  rw [fallback]

end checks

/-- Settles O41: the records of a chain, then the checks one after the other. -/
theorem lookupChecksInOrder : Obligations.LookupChecksInOrder := by
  unfold Obligations.LookupChecksInOrder
  refine ⟨fun w h k fits => ⟨fun es p guard listed => windowAdmits_listed fits guard listed, windowAdmits_unlisted,
    fun b a record low high => forwardedAddress_translated fits record low high, forwardedAddress_plain,
    mirrorPort_eq_some_iff fits.kinds⟩, fun s h r disjoint _ => ?_⟩
  refine ⟨lookup_barred, fun unbarred => ⟨fun i w window reserved => ?_, fun free => ?_⟩⟩
  · rw [lookup_reserved unbarred disjoint window reserved]
    refine ⟨fun staged => ?_, lookupWindow_draining, fun live => ⟨fun past => ?_, fun inside => ⟨fun denied => ?_, fun admitted =>
      ⟨fun shut => ?_, fun up unbarredTarget => ?_⟩⟩⟩⟩
    · unfold lookupWindow
      rw [staged]
    · rw [lookupWindow_live live]
      exact if_pos past
    all_goals rw [lookupWindow_live live, if_neg (Nat.not_lt.2 inside : ¬r.span.last > w.limit.toNat)]
    · rw [denied]
      rfl
    · rw [admitted, (targetOpen_eq_false_iff ..).2 shut]
      rfl
    · rw [admitted, (targetOpen_iff ..).2 ⟨up, unbarredTarget⟩]
      rfl
  · rw [lookup_unclaimed unbarred free]
    refine ⟨fun straddles => if_pos ?_, fun apart inside => ?_⟩
    · rw [Bool.or_eq_true, meetsReserved_iff, decide_eq_true_iff]
      exact straddles
    · have clear : ¬(meetsReserved s r.span || decide (r.span.last > Config.lastAddress)) = true := by
        rw [Bool.or_eq_true, meetsReserved_iff, decide_eq_true_iff]
        rintro (⟨i, p, piece, meets⟩ | beyond)
        · exact apart i p piece meets
        · exact absurd inside (Nat.not_le.2 beyond)
      rw [if_neg clear]
      refine ⟨fun none => ?_, fun g fallback => ⟨fun shut => ?_, fun up unbarredTarget => ?_⟩⟩
      · unfold lookupFallback
        rw [none]
      · rw [lookupFallback_some fallback, (targetOpen_eq_false_iff ..).2 shut]
        rfl
      · rw [lookupFallback_some fallback, (targetOpen_iff ..).2 ⟨up, unbarredTarget⟩]
        rfl

end Sys2Proof.Machine
end

section
/-! PROOFS. Timers that run out, and the delivery that completes a drain. -/

namespace Sys2Proof.Machine

/-! ### The reply timer (R61, R62, R68) -/

/-- The part just after a reply timer has ended its entry's wait, before drains complete and freed resources are offered. -/
def timedOut (i : Fin Config.replyEntries) (w : Waiting) (s : State) : State :=
  leaveWaiting i .timeout [] (setFlag .replyTimeout (.target w.target) s)

theorem exec_replyTimerExpiry {s : State} {i : Fin Config.replyEntries} {w : Waiting} (running : s.ctl.phase = .running)
    (waiting : (s.entry i).state = .waiting w) :
    exec (.replyTimerExpiry i) s = .next (notify s none (settle s (timedOut i w s))) := by
  change execReplyTimerExpiry i s = _
  unfold execReplyTimerExpiry
  rw [waiting]
  exact if_pos ((isRunning_iff s).2 running)

theorem exec_replyTimerExpiry_idle {s : State} {i : Fin Config.replyEntries} (none : ∀ w, (s.entry i).state ≠ .waiting w) :
    exec (.replyTimerExpiry i) s = .next s := by
  change execReplyTimerExpiry i s = _
  unfold execReplyTimerExpiry
  split
  · next w waiting => exact absurd waiting (none w)
  · rfl

theorem timedOut_left {s : State} {i : Fin Config.replyEntries} {w : Waiting} (waiting : (s.entry i).state = .waiting w) :
    EntryLeft i w .timeout [] s (timedOut i w s) :=
  entryLeft_leaveWaiting waiting .timeout [] (raiseFlag .replyTimeout (portMask (.target w.target)) s.events)

theorem timedOut_flagRaised (i : Fin Config.replyEntries) (w : Waiting) (s : State) :
    FlagRaised .replyTimeout (portMask (.target w.target)) s (timedOut i w s) := by
  refine flagRaised_raise _ _ _ _ ?_
  unfold timedOut
  rw [leaveWaiting_events]
  rfl

/-- With no host waiting, the tail of an event only completes drains. -/
theorem settle_noHostWaits {before s : State} (none : NoHostWaits s) : settle before s = completeDrains s := by
  unfold settle
  exact offerFreed_idle _ _ ((drainsEnd_completeDrains s).noHostWaits none)

theorem settle_still {before s : State} (none : NoHostWaits s) : (settle before s).fwd = s.fwd ∧ (settle before s).sent = s.sent := by
  have ends := drainsEnd_completeDrains s
  rw [settle_noHostWaits none]
  exact ⟨ends.fwd, by rw [ends.rest]⟩

theorem FlagRaised.of_events {f : Flag} {ps : BitVec 9} {s t u : State} (h : FlagRaised f ps s t) (events : u.events = t.events) :
    FlagRaised f ps s u := h.congr (by rw [events]) (by rw [events]) (by rw [events]) (by rw [events]) (by rw [events])

/-- Settles O45: the entry's leaving is written out (`EntryLeft`), and the tail of the event is followed from it. -/
theorem replyTimerExpires : Obligations.ReplyTimerExpires := by
  unfold Obligations.ReplyTimerExpires
  intro s i
  refine ⟨fun w running waiting => ?_, exec_replyTimerExpiry_idle⟩
  have left := timedOut_left waiting
  have raised := timedOut_flagRaised i w s
  obtain ⟨link, held, -⟩ := settle_keeps s (timedOut i w s)
  refine ⟨_, exec_replyTimerExpiry running waiting, left.leftWaiting s none, shows_settle raised.shows s s none, fun idle => ?_,
    ⟨_, left, raised, fun calm => handOut_settle s none _ calm,
      fun j win e last => last.completes left.count left.eng s s none⟩, fun drainless => ?_, ?_, ?_⟩
  · have still := settle_still (before := s) (left.noHostWaits idle)
    have events := left.settle_events idle
    refine ⟨notify_flagRaised _ _ _ (raised.of_events events), ?_, ?_⟩
    · rw [notify_fwd, still.1, left.fwd]
    · rw [notify_sent, still.2, left.rest]
  · rw [notify_eng, left.settle_eng drainless]
  · rw [notify_ports]
    exact link.trans left.link
  · rw [notify_ports]
    exact held.trans left.held

/-! ### Delivery (R21, R151) -/

theorem exec_delivery {s : State} {g : TargetId} {pkt : EgressPacket} {rest : List EgressPacket} (running : s.ctl.phase = .running)
    (up : s.link (.target g) = .up) (credit : s.ports.held.get (.target g) ≠ 0) (queue : s.egress g = pkt :: rest) :
    exec (.delivery g) s = .next (notify s none (settle s (deliverHead g pkt s))) := by
  have up' : isUp (.target g) s = true := by simp [isUp, up]
  change execDelivery g s = _
  unfold execDelivery
  rw [queue]
  exact if_pos ⟨(isRunning_iff s).2 running, up', credit⟩

/-- What the departure of a packet leaves, before drains complete and the freed place is offered. -/
structure Delivered (g : TargetId) (pkt : EgressPacket) (rest : List EgressPacket) (s u : State) : Prop where
  uncounted : namedRoute pkt = none → u.dir = s.dir
  counted : ∀ r, namedRoute pkt = some r → CountChanges r (· - 1) s u
  windows : WindowsKept s u
  fallback : u.dir.fallback = s.dir.fallback
  frame : u = { s with
    dir := u.dir
    ports := { s.ports with
      egress := s.ports.egress.set g rest, held := s.ports.held.set (.target g) (s.ports.held.get (.target g) - 1) }
    sent := s.sent ++ [(.target g, .egress pkt)] }

theorem delivered_deliverHead {s : State} {g : TargetId} {pkt : EgressPacket} {rest : List EgressPacket}
    (queue : s.egress g = pkt :: rest) : Delivered g pkt rest s (deliverHead g pkt s) := by
  unfold deliverHead
  rw [queue]
  obtain ⟨windows, _, fallback, falls⟩ := lowerCountOf_spec pkt (sendAgainstCredit (.target g) (.egress pkt) (s.setEgress g rest))
  refine ⟨fun none => ?_, fun r named => ?_, windows, fallback, falls⟩
  · cases pkt with
    | post r o a d => cases none
    | fetch i ep a n => rfl
  · cases pkt with
    | post r' o a d =>
      cases named
      exact (lowerCount_spec r (sendAgainstCredit (.target g) (.egress (.post r o a d)) (s.setEgress g rest))).2.of_dir rfl rfl
    | fetch i ep a n => cases named

/-- The event that takes away a draining window's last item completes its drain alone (R122). -/
theorem LastOf.completesOne {r : Route} {j : DrainJob} {w : Window} {e : OrderEntry} {s u : State} (h : LastOf r j w e s)
    (count : CountChanges r (· - 1) s u) (eng : u.eng = s.eng) : completeDrains u = completeJob j u := by
  obtain ⟨generation, rfl⟩ := h.route
  have zero : (u.slot j.handle.slot).count = 0 := by
    have fallen := count.count_self
    rw [h.count] at fallen
    exact fallen
  refine completeDrains_only (eng ▸ h.job) (eng ▸ h.follows.distinct) zero fun k job other => ?_
  rw [count.slot_ne other]
  exact job_hasTraffic h.follows h.traffic (eng ▸ job)

/-- The completion of a job answers its order at once, unless it is silent (R122). -/
theorem completeJob_answers {s u : State} {j : DrainJob} {e : OrderEntry} (taken : TakenFollowsDrains s) (eng : u.eng = s.eng)
    (order : e ∈ s.orders j.source) (held : e.state = .taken j.handle.slot) (speaks : e.silent = false) :
    (completeJob j u).returns j.source = u.returns j.source ++ [.orderReply e.sequence e.code .done []] ∧
      { e with state := .answered } ∈ (completeJob j u).orders j.source := by
  have orders : (removeJob j.handle.slot (carryOutPurpose j.handle.slot u)).orders j.source = s.orders j.source := by
    unfold removeJob
    rw [State.setDrains_orders]
    unfold State.orders
    rw [carryOutPurpose_eng, eng]
  have returns : (removeJob j.handle.slot (carryOutPurpose j.handle.slot u)).returns j.source = u.returns j.source := by
    unfold removeJob
    rw [State.setDrains_returns]
    unfold State.returns
    rw [carryOutPurpose_ports]
  have answers := closeOrder_answers (orders ▸ taken.once j.source j.handle.slot) (orders ▸ order) held .done speaks
  rw [returns] at answers
  exact answers

/-- The order's reply stands before whatever the offers of the event place (log 15). -/
theorem LastOf.replies {r : Route} {j : DrainJob} {w : Window} {e : OrderEntry} {s u : State} (h : LastOf r j w e s)
    (count : CountChanges r (· - 1) s u) (eng : u.eng = s.eng) (speaks : e.silent = false) (before before' : State)
    (prompt : Option Port) :
    u.returns j.source ++ [.orderReply e.sequence e.code .done []] <+: (notify before prompt (settle before' u)).returns j.source := by
  obtain ⟨placed, _⟩ := completeJob_answers h.taken eng h.order h.held speaks
  unfold settle
  rw [h.completesOne count eng, ← placed]
  exact ((moves_offerFreed before' _).returns _).trans (notify_returns ..)

/-- Settles O43: the head's departure brings the window's count to zero. -/
theorem lastDeliveryCompletesDrain : Obligations.LastDeliveryCompletesDrain := by
  unfold Obligations.LastDeliveryCompletesDrain
  intro s g hd o a d rest j w e running up credit queue follows taken traffic job slot window count order held
  have gone := delivered_deliverHead queue
  have lowers := gone.counted _ rfl
  have eng : (deliverHead g (.post (.window hd) o a d) s).eng = s.eng := by rw [gone.frame]
  have returns : (deliverHead g (.post (.window hd) o a d) s).returns j.source = s.returns j.source := by rw [gone.frame]; rfl
  have last : LastOf (.window hd) j w e s :=
    ⟨follows, taken, traffic, job, ⟨hd.generation, by rw [slot]⟩, by rw [slot]; exact window, by rw [slot]; exact count, order,
      by rw [slot]; exact held⟩
  have done := last.completes lowers eng s s none
  refine ⟨_, exec_delivery running up credit queue, fun c change => ?_, fun retire => ?_, ?_, fun speaks => ⟨?_, ?_⟩,
    done.removed, fun i other => ?_⟩
  · rw [← slot]; exact done.change c change
  · rw [← slot]; exact done.retire retire
  · rw [← slot]; exact done.drains
  · rw [← returns]; exact last.replies lowers eng speaks s s none
  · exact (done.answered speaks).2
  · exact done.others i (by rw [slot]; exact other)

/-! ### The drain timer of a GENTLE job (R15, R125) -/

theorem closeOrder_answered_eq {s : State} {src : Source} {i : Fin Config.slots} {e : OrderEntry} {st : Status}
    (once : (s.orders src).countP (isTakenFor i) ≤ 1) (order : e ∈ s.orders src) (held : e.state = .taken i)
    (speaks : e.silent = false) :
    ∃ older newer, s.orders src = older ++ e :: newer ∧
      closeOrder src i st s =
        pushReturn src (.orderReply e.sequence e.code st []) (s.setOrders src (older ++ { e with state := .answered } :: newer)) := by
  have picked : isTakenFor i e = true := by simp [isTakenFor, held]
  obtain ⟨older, newer, queue, before⟩ := split_at_only once order picked
  refine ⟨older, newer, queue, ?_⟩
  unfold closeOrder
  rw [find_isTakenFor once order held]
  dsimp only
  rw [if_neg (by simp [speaks]), queue, updateFirst_append _ _ _ _ _ before picked]

theorem closeOrder_silent_eq {s : State} {src : Source} {i : Fin Config.slots} {e : OrderEntry} {st : Status}
    (once : (s.orders src).countP (isTakenFor i) ≤ 1) (order : e ∈ s.orders src) (held : e.state = .taken i)
    (silent : e.silent = true) : closeOrder src i st s = s.setOrders src ((s.orders src).erase e) := by
  have removed := closeOrder_removes once order held st silent
  unfold closeOrder at removed ⊢
  rw [find_isTakenFor once order held] at removed ⊢
  dsimp only at removed ⊢
  rw [if_pos silent] at removed ⊢
  rw [State.setOrders_orders_self] at removed
  rw [removed]

/-- A DRAINING window is LIVE as it was, with the record of a pending attach back in the pool. -/
theorem restoreWindow_eq {i : Fin Config.slots} {s : State} {w : Window} (window : (s.slot i).window = some w)
    (draining : isDraining w.state = true) :
    restoreWindow i s = (setWindow i { w with state := .live } s).setPoolFree (s.dir.poolFree + pendingRecord w.state) := by
  unfold restoreWindow
  rw [window]
  dsimp only
  cases state : w.state with
  | staged => rw [state] at draining; cases draining
  | live => rw [state] at draining; cases draining
  | drainRetire => rfl
  | drainChange c => cases c <;> rfl

section expiry

variable {s : State} {j : DrainJob} (running : s.ctl.phase = .running) (follow : DrainsFollowWindows s) (job : j ∈ s.eng.drains)
include running follow job

theorem exec_drainTimerExpiry_gentle (mode : j.mode = .gentle) :
    exec (.drainTimerExpiry j.handle.slot) s = .next (notify s none (abandonDrain j s)) := by
  have found : (s.eng.drains.find? fun k => k.handle.slot == j.handle.slot) = some j := jobOf_eq follow job
  change execDrainTimerExpiry j.handle.slot s = _
  unfold execDrainTimerExpiry
  rw [if_pos ((isRunning_iff s).2 running), found]
  dsimp only
  rw [mode]

theorem exec_drainTimerExpiry_force (mode : j.mode = .force) :
    exec (.drainTimerExpiry j.handle.slot) s = .next (notify s none (offerFreed s (forceDrain j s))) := by
  have found : (s.eng.drains.find? fun k => k.handle.slot == j.handle.slot) = some j := jobOf_eq follow job
  change execDrainTimerExpiry j.handle.slot s = _
  unfold execDrainTimerExpiry
  rw [if_pos ((isRunning_iff s).2 running), found]
  dsimp only
  rw [mode]

end expiry

/-- The state in which the order of an abandoned drain is closed: the window restored and the job gone (R125). -/
def drainAbandoned (j : DrainJob) (w : Window) (s : State) : State :=
  removeJob j.handle.slot
    ((setWindow j.handle.slot { w with state := .live } s).setPoolFree (s.dir.poolFree + pendingRecord w.state))

theorem abandonJob_closes {j : DrainJob} {s : State} {w : Window} (window : (s.slot j.handle.slot).window = some w)
    (draining : isDraining w.state = true) :
    abandonJob j s = closeOrder j.source j.handle.slot .drainExpired (drainAbandoned j w s) := by
  rw [abandonJob_eq, restoreWindow_eq window draining]
  rfl

/-- What an abandoned drain leaves but for its order: window, pool, drain list and flag (R125). -/
structure DrainAbandoned (j : DrainJob) (w : Window) (s t : State) : Prop where
  window : WindowBecomes j.handle.slot (some { w with state := .live }) (s.slot j.handle.slot).generation
    (s.dir.poolFree + pendingRecord w.state) s t
  drains : t.eng.drains = s.eng.drains.filter (fun k => k.handle.slot != j.handle.slot)
  flag : FlagRaised .drainExpired 0 s t
  frame : t = { s with
    dir := t.dir
    eng := { s.eng with orders := t.eng.orders, drains := t.eng.drains }
    ports := { s.ports with returns := t.ports.returns }
    events := t.events }

/-- A state that closes the order of an abandoned drain in some way, seen at the end of the event. -/
theorem drainAbandoned_notify {j : DrainJob} {w : Window} {s u : State} (before : State)
    (closes : u = { drainAbandoned j w s with
      eng := { (drainAbandoned j w s).eng with orders := u.eng.orders }
      ports := { s.ports with returns := u.ports.returns } }) :
    DrainAbandoned j w s (notify before none (setPlainFlag .drainExpired u)) := by
  refine ⟨?_, ?_, notify_flagRaised _ _ _ (flagRaised_raise _ _ _ _ (by rw [closes]; rfl)), ?_⟩
  · unfold WindowBecomes
    rw [notify_dir, closes]
    rfl
  · rw [notify_eng, closes]
    rfl
  · rw [notify_frame, closes]
    rfl

theorem pendingRecord_pool (st : WindowState) (n : Nat) :
    n + pendingRecord st = match st with | .drainChange (.attach _) => n + 1 | _ => n := by
  cases st with
  | drainChange c => cases c <;> rfl
  | _ => rfl

/-- Settles O46: window, pool, list and flag are left alike, and the order is answered or its silent entry removed. -/
theorem gentleDrainExpires : Obligations.GentleDrainExpires := by
  unfold Obligations.GentleDrainExpires
  intro s j w e running follow taken job mode window order held
  have draining : isDraining w.state = true := by
    obtain ⟨v, window', _, purpose⟩ := follow.follows j job
    cases window.symm.trans window'
    exact isDraining_of_drainPurpose purpose
  have once : ((drainAbandoned j w s).orders j.source).countP (isTakenFor j.handle.slot) ≤ 1 := taken.once j.source j.handle.slot
  have order' : e ∈ (drainAbandoned j w s).orders j.source := order
  have step := exec_drainTimerExpiry_gentle running follow job mode
  rw [abandonDrain_eq, abandonJob_closes window draining] at step
  rcases (Bool.eq_false_or_eq_true e.silent).symm with silent | silent
  · obtain ⟨older, newer, queue, closed⟩ := closeOrder_answered_eq (st := .drainExpired) once order' held silent
    rw [closed] at step
    have left := drainAbandoned_notify (j := j) (w := w) (s := s) s
      (u := pushReturn j.source (.orderReply e.sequence e.code .drainExpired [])
        ((drainAbandoned j w s).setOrders j.source (older ++ { e with state := .answered } :: newer))) rfl
    have window' := left.window
    rw [pendingRecord_pool] at window'
    refine ⟨_, step, window', left.drains, left.flag,
      fun _ => ⟨(notify_noticesOnly _ _ _).congr_left rfl, older, newer, queue, ?_⟩, fun h => absurd (silent.symm.trans h) nofun, fun other ne => ?_, left.frame⟩
    · rw [notify_orders]
      exact State.setOrders_orders_self ..
    · rw [notify_orders]
      exact State.setOrders_orders_ne (drainAbandoned j w s) j.source _ ne
  · have closed := closeOrder_silent_eq (st := .drainExpired) once order' held silent
    rw [closed] at step
    have left := drainAbandoned_notify (j := j) (w := w) (s := s) s
      (u := (drainAbandoned j w s).setOrders j.source (((drainAbandoned j w s).orders j.source).erase e)) rfl
    have window' := left.window
    rw [pendingRecord_pool] at window'
    refine ⟨_, step, window', left.drains, left.flag, fun h => absurd (silent.symm.trans h) nofun,
      fun _ => ⟨?_, (notify_noticesOnly _ _ _).congr_left rfl⟩, fun other ne => ?_, left.frame⟩
    · rw [notify_orders]
      exact State.setOrders_orders_self ..
    · rw [notify_orders]
      exact State.setOrders_orders_ne (drainAbandoned j w s) j.source _ ne

end Sys2Proof.Machine
end

section
/-! PROOFS. Deliveries and return queues: what an event frees, and the first host that takes it. -/

namespace Sys2Proof.Machine

/-! ### Attempts of hosts that wait (R40) -/

/-- A lookup turns on windows and their generations, the fallback, links and barred flags alone. -/
theorem lookup_congr {s t : State} (windows : WindowsKept s t) (fallback : t.dir.fallback = s.dir.fallback)
    (link : t.ports.link = s.ports.link) (barredHost : t.ports.barredHost = s.ports.barredHost)
    (barredTarget : t.ports.barredTarget = s.ports.barredTarget) (h : HostId) (r : Request) : lookup t h r = lookup s h r := by
  have reserved : ∀ i, slotReserved (t.slot i) = slotReserved (s.slot i) := fun i => by
    unfold slotReserved
    rw [(windows i).1]
  have find : ∀ a, findSlot t a = findSlot s a := fun a => by
    unfold findSlot
    simp only [reserved]
  have meets : ∀ q, meetsReserved t q = meetsReserved s q := fun q => by
    unfold meetsReserved
    simp only [reserved]
  have opens : ∀ g, targetOpen g t = targetOpen g s := targetOpen_congr link barredTarget
  have window : ∀ i w, lookupWindow t i w h r = lookupWindow s i w h r := fun i w => by
    unfold lookupWindow
    rw [opens, (windows i).2]
  have unclaimed : ∀ a, lookupFallback t a = lookupFallback s a := fun a => by
    unfold lookupFallback
    simp only [fallback, opens]
  unfold lookup
  simp only [find, meets, barredHost, window, unclaimed, fun i => (windows i).1]

section attempts

variable {s : State} {h : HostId}

/-- The attempt of a host that waits is that of a head before its first one. -/
theorem attempt_waiting {r : Request} (offered : Option (Fin Config.replyEntries)) (head : (s.ingress h).head? = some r) :
    attempt h offered s = attemptPlan h offered (planOf (s.setMark h .clear) h r) (s.setMark h .clear) := by
  rw [← attempt_setMark]
  exact attempt_head offered (State.setMark_mark_self ..) head

/-- A POST that goes to one queue, where it has a place. -/
theorem attempt_post_alone {a : Addr} {d : List Byte} {hop : Hop} (offered : Option (Fin Config.replyEntries))
    (head : (s.ingress h).head? = some (.post a d)) (forward : lookup s h (.post a d) = .forward hop) (mirrorless : hop.mirror = none)
    (room : (s.egress hop.target).length < 16) :
    attempt h offered s = placePost h d hop hop.target (takeHead h (s.setMark h .clear)) := by
  have forward' : lookup (s.setMark h .clear) h (.post a d) = .forward hop := forward
  have copy : copyPort (s.setMark h .clear) hop = none := copyPort_mirrorless mirrorless
  have lacks : lacking (s.setMark h .clear) (.sendPost d hop) = .clear :=
    lacking_sendPost room fun m some => absurd (copy.symm.trans some) nofun
  rw [attempt_waiting offered head, planOf_post_forward forward', attemptPlan_carried lacks]
  exact forwardPost_alone (copyPort_mirrorless mirrorless) (skippedPort_mirrorless mirrorless)

theorem entryFor_offered {i : Fin Config.replyEntries} (free : (s.entry i).state = .free) : entryFor s (some i) = some i :=
  if_pos ((isFree_iff _).2 free)

theorem lowestFree_isNone_of_free {i : Fin Config.replyEntries} (free : (s.entry i).state = .free) :
    (lowestFree s).isNone = false := by
  rw [← Bool.not_eq_true, lowestFree_isNone_iff, not_not]
  exact ⟨i, free⟩

/-- A FETCH that is refused, on the offer of an entry. -/
theorem attempt_fetch_refused {i : Fin Config.replyEntries} {tag : BitVec 8} {a : Addr} {n : Nat} {st : Status}
    (head : (s.ingress h).head? = some (.fetch tag a n)) (fresh : ¬DuplicateTag s h tag)
    (refused : lookup s h (.fetch tag a n) = .refused st) (free : (s.entry i).state = .free) :
    attempt h (some i) s = answerRefused h tag st i (takeHead h (s.setMark h .clear)) := by
  have fresh' : ¬DuplicateTag (s.setMark h .clear) h tag := fresh
  have refused' : lookup (s.setMark h .clear) h (.fetch tag a n) = .refused st := refused
  have lacks : lacking (s.setMark h .clear) (.answer tag st) = .clear := by
    have entry : (lowestFree (s.setMark h .clear)).isNone = false := lowestFree_isNone_of_free (i := i) free
    unfold lacking
    rw [entry]
    rfl
  have offered : entryFor (takeHead h (s.setMark h .clear)) (some i) = some i := entryFor_offered (i := i) free
  rw [attempt_waiting (some i) head, planOf_fetch_refused fresh' refused', attemptPlan_carried lacks]
  unfold carryOut
  dsimp only
  rw [offered]

/-- A FETCH that is forwarded, on the offer of an entry. -/
theorem attempt_fetch_forward {i : Fin Config.replyEntries} {tag : BitVec 8} {a : Addr} {n : Nat} {hop : Hop}
    (head : (s.ingress h).head? = some (.fetch tag a n)) (fresh : ¬DuplicateTag s h tag)
    (forward : lookup s h (.fetch tag a n) = .forward hop) (free : (s.entry i).state = .free)
    (room : (s.egress hop.target).length < 16) :
    attempt h (some i) s = forwardFetch h tag n hop i (takeHead h (s.setMark h .clear)) := by
  have fresh' : ¬DuplicateTag (s.setMark h .clear) h tag := fresh
  have forward' : lookup (s.setMark h .clear) h (.fetch tag a n) = .forward hop := forward
  have lacks : lacking (s.setMark h .clear) (.sendFetch tag n hop) = .clear := by
    have entry : (lowestFree (s.setMark h .clear)).isNone = false := lowestFree_isNone_of_free (i := i) free
    have place : egressFull (s.setMark h .clear) hop.target = false := egressFull_room room
    unfold lacking
    dsimp only
    rw [entry, place, PerTarget.set_replicate]
    rfl
  have offered : entryFor (takeHead h (s.setMark h .clear)) (some i) = some i := entryFor_offered (i := i) free
  rw [attempt_waiting (some i) head, planOf_fetch_forward fresh' forward', attemptPlan_carried lacks]
  unfold carryOut
  dsimp only
  rw [offered]

end attempts

/-! ### What an event frees (R46, R47) -/

theorem freedEntries_none {s u : State} (kept : ∀ i, (s.entry i).state ≠ .free → (u.entry i).state ≠ .free) :
    freedEntries s u = [] := by
  unfold freedEntries
  rw [List.filter_eq_nil_iff]
  intro i _ freed
  rw [Bool.and_eq_true, Bool.not_eq_true', ← Bool.not_eq_true, isFree_iff, isFree_iff] at freed
  exact kept i freed.1 freed.2

theorem freedEntries_one {s u : State} {i : Fin Config.replyEntries} (used : (s.entry i).state ≠ .free)
    (free : (u.entry i).state = .free) (kept : ∀ k, k ≠ i → (s.entry k).state ≠ .free → (u.entry k).state ≠ .free) :
    freedEntries s u = [i] := by
  have only : ∀ k, (!(s.entry k).isFree && (u.entry k).isFree) = (k == i) := fun k => by
    rw [Bool.eq_iff_iff, Bool.and_eq_true, Bool.not_eq_true', ← Bool.not_eq_true, isFree_iff, isFree_iff, beq_iff_eq]
    refine ⟨fun freed => ?_, fun same => by rw [same]; exact ⟨used, free⟩⟩
    by_contra other
    exact kept k other freed.1 freed.2
  unfold freedEntries
  simp only [only]
  rw [List.filter_beq, List.count_eq_one_of_mem (List.nodup_finRange _) (List.mem_finRange i)]
  rfl

theorem freedPlaces_none {s u : State} {g : TargetId} (kept : (s.egress g).length ≤ (u.egress g).length) :
    freedPlaces s u g = 0 := Nat.sub_eq_zero_of_le kept

theorem offerFreed_eq (before s : State) :
    offerFreed before s =
      TargetId.all.foldl (fun t g => offerPlaces g (freedPlaces before s g) t)
        ((freedEntries before s).foldl (fun t i => offerEntry i t) s) := rfl

/-- An event that frees nothing offers nothing. -/
theorem offerFreed_nothing {s u : State} (entries : ∀ i, (s.entry i).state ≠ .free → (u.entry i).state ≠ .free)
    (places : ∀ g, (s.egress g).length ≤ (u.egress g).length) : offerFreed s u = u := by
  rw [offerFreed_eq, freedEntries_none entries]
  simp only [fun g => freedPlaces_none (places g)]
  rfl

/-- An event that frees one entry alone offers that. -/
theorem offerFreed_entry {s u : State} {i : Fin Config.replyEntries} (used : (s.entry i).state ≠ .free)
    (free : (u.entry i).state = .free) (kept : ∀ k, k ≠ i → (s.entry k).state ≠ .free → (u.entry k).state ≠ .free)
    (places : ∀ g, (s.egress g).length ≤ (u.egress g).length) : offerFreed s u = offerEntry i u := by
  rw [offerFreed_eq, freedEntries_one used free kept]
  simp only [fun g => freedPlaces_none (places g)]
  rfl

/-- An event that frees one place alone offers that. -/
theorem offerFreed_place {s u : State} {g : TargetId} (entries : ∀ i, (s.entry i).state ≠ .free → (u.entry i).state ≠ .free)
    (freed : freedPlaces s u g = 1) (others : ∀ k, k ≠ g → (s.egress k).length ≤ (u.egress k).length) :
    offerFreed s u = offerPlace g u := by
  have places : ∀ k, freedPlaces s u k = if k = g then 1 else 0 := fun k => by
    split
    · next same => rw [same, freed]
    · next other => exact freedPlaces_none (others k other)
  rw [offerFreed_eq, freedEntries_none entries]
  simp only [places]
  cases g <;> rfl

/-! ### The first host that waits (R46, R47) -/

theorem offerPlaceTo_passed {g : TargetId} {passed : List HostId} {s : State}
    (none : ∀ k ∈ passed, Freed.wantedBy k s (.place g) = false) (later : List HostId) :
    offerPlaceTo g (passed ++ later) s = offerPlaceTo g later s := by
  induction passed with
  | nil => rfl
  | cons k ks ih =>
    have idle : (s.mark k).places.get g = false := none k (List.mem_cons_self ..)
    rw [List.cons_append, offerPlaceTo, if_neg (by rw [idle]; exact Bool.false_ne_true)]
    exact ih fun k' hk => none k' (List.mem_cons_of_mem _ hk)

theorem offerEntryTo_passed {i : Fin Config.replyEntries} {passed : List HostId} {s : State}
    (none : ∀ k ∈ passed, Freed.wantedBy k s (.entry i) = false) (later : List HostId) :
    offerEntryTo i (passed ++ later) s = offerEntryTo i later s := by
  induction passed with
  | nil => rfl
  | cons k ks ih =>
    have idle : (s.mark k).entry = false := none k (List.mem_cons_self ..)
    rw [List.cons_append, offerEntryTo, if_neg (by rw [idle]; exact Bool.false_ne_true)]
    exact ih fun k' hk => none k' (List.mem_cons_of_mem _ hk)

theorem offerPlace_first {g : TargetId} {s : State} {h : HostId} (first : FirstInTurn (.place g) s h)
    (grows : (s.egress g).length < ((attempt h none s).egress g).length) :
    offerPlace g s = (attempt h none s).setEgressPosition g h := by
  obtain ⟨passed, later, turns, none, wants⟩ := first
  have wants' : (s.mark h).places.get g = true := wants
  rw [turnsAfter_eq] at turns
  unfold offerPlace
  rw [show hostsAfter (s.ports.egressPosition.get g) = _ from turns, offerPlaceTo_passed none, offerPlaceTo, if_pos wants']
  exact if_pos grows

theorem offerEntry_first {i : Fin Config.replyEntries} {s : State} {h : HostId} (first : FirstInTurn (.entry i) s h)
    (takes : ((attempt h (some i) s).entry i).state ≠ .free) :
    offerEntry i s = (attempt h (some i) s).setEntryPosition h := by
  obtain ⟨passed, later, turns, none, wants⟩ := first
  have wants' : (s.mark h).entry = true := wants
  rw [turnsAfter_eq] at turns
  unfold offerEntry
  rw [show hostsAfter s.table.position = _ from turns, offerEntryTo_passed none, offerEntryTo, if_pos wants']
  exact if_neg fun free => takes ((isFree_iff _).1 free)

/-! ### Delivery (R47, R151) -/

section delivery

variable {s u : State} {g : TargetId} {pkt : EgressPacket} {rest : List EgressPacket} (gone : Delivered g pkt rest s u)
include gone

theorem Delivered.egress (k : TargetId) : u.egress k = if k = g then rest else s.egress k := by
  rw [gone.frame]
  exact PerTarget.get_set ..

theorem Delivered.entry (i : Fin Config.replyEntries) : u.entry i = s.entry i := by rw [gone.frame]; rfl

theorem Delivered.noHostWaits (none : NoHostWaits s) : NoHostWaits u := by
  rw [gone.frame]
  exact none

theorem Delivered.noDrains (none : NoDrains s) : NoDrains u := by
  rw [gone.frame]
  exact none

theorem Delivered.events : u.events = s.events := by rw [gone.frame]

/-- The place that a departure frees is the one that is offered. -/
theorem Delivered.offers (queue : s.egress g = pkt :: rest) : offerFreed s u = offerPlace g u := by
  refine offerFreed_place (fun i used => by rw [gone.entry]; exact used) ?_ fun k other => by rw [gone.egress, if_neg other]
  unfold freedPlaces
  rw [queue, gone.egress, if_pos rfl, List.length_cons]
  omega

theorem Delivered.sameLookup (h : HostId) (r : Request) : lookup u h r = lookup s h r :=
  lookup_congr gone.windows gone.fallback (by rw [gone.frame]) (by rw [gone.frame]) (by rw [gone.frame]) h r

/-- The first host that waits, where its POST goes to the queue that has the place (R47). -/
theorem Delivered.taken {h : HostId} {a : Addr} {d : List Byte} {hop : Hop} (queue : s.egress g = pkt :: rest)
    (first : FirstInTurn (.place g) s h) (head : (s.ingress h).head? = some (.post a d))
    (forward : lookup s h (.post a d) = .forward hop) (target : hop.target = g) (mirrorless : hop.mirror = none)
    (room : rest.length < 16) :
    offerFreed s u = (placePost h d hop g (takeHead h (u.setMark h .clear))).setEgressPosition g h := by
  subst target
  have queue' : u.egress hop.target = rest := by rw [gone.egress, if_pos rfl]
  have first' : FirstInTurn (.place hop.target) u h := by
    rw [gone.frame]
    exact first
  have head' : (u.ingress h).head? = some (.post a d) := by
    rw [gone.frame]
    exact head
  have attempts := attempt_post_alone none head' ((gone.sameLookup ..).trans forward) mirrorless (by rw [queue']; exact room)
  obtain ⟨-, placed⟩ := placePost_spec h d hop hop.target (takeHead h (u.setMark h .clear))
  have grown : (placePost h d hop hop.target (takeHead h (u.setMark h .clear))).egress hop.target =
      u.egress hop.target ++ [.post hop.route h hop.address d] := by
    rw [placed]
    exact PerTarget.get_set_self ..
  have grows : (u.egress hop.target).length < ((attempt h none u).egress hop.target).length := by
    rw [attempts, grown, List.length_append]
    exact Nat.lt_succ_self _
  rw [gone.offers queue, offerPlace_first first' grows, attempts]

/-- What that host's POST leaves. -/
theorem Delivered.placed (h : HostId) (d : List Byte) (hop : Hop) :
    let t := (placePost h d hop g (takeHead h (u.setMark h .clear))).setEgressPosition g h
    t.egress g = rest ++ [.post hop.route h hop.address d] ∧ t.ports.egressPosition = s.ports.egressPosition.set g h ∧
      t.ingress h = (s.ingress h).tail ∧ t.mark h = .clear ∧ t.sent = u.sent ++ [(.host h, .credit .request 1)] := by
  obtain ⟨-, placed⟩ := placePost_spec h d hop g (takeHead h (u.setMark h .clear))
  have queue : u.egress g = rest := by rw [gone.egress, if_pos rfl]
  have position : u.ports.egressPosition = s.ports.egressPosition := by rw [gone.frame]
  have ingress : u.fwd = s.fwd := by rw [gone.frame]
  dsimp only
  rw [placed]
  refine ⟨(PerTarget.get_set_self ..).trans (by rw [← queue]; rfl), by rw [← position]; rfl,
    (PerHost.get_set_self ..).trans ?_, PerHost.get_set_self .., rfl⟩
  unfold State.ingress
  rw [← ingress]
  rfl

end delivery

theorem exec_delivery_still {s : State} {g : TargetId} (still : s.link (.target g) ≠ .up ∨ s.ports.held.get (.target g) = 0) :
    exec (.delivery g) s = .next s := by
  change execDelivery g s = _
  unfold execDelivery
  split
  · rfl
  · refine if_neg ?_
    rintro ⟨_, up, credit⟩
    rcases still with down | empty
    · exact down (by simpa [isUp] using up)
    · exact credit empty

/-- Settles O42: the departure is written out (`Delivered`), then the place it frees goes to the first host that waits. -/
theorem deliverySendsHead : Obligations.DeliverySendsHead := by
  unfold Obligations.DeliverySendsHead
  intro s g pkt rest queue
  refine ⟨fun running up credit => ?_, fun h running => ?_, exec_delivery_still⟩
  · have gone := delivered_deliverHead queue
    have ends := drainsEnd_completeDrains (deliverHead g pkt s)
    have moves : TrafficMoves (completeDrains (deliverHead g pkt s)) (settle s (deliverHead g pkt s)) := moves_offerFreed s _
    obtain ⟨link, held, -⟩ := settle_keeps s (deliverHead g pkt s)
    have kept : ∀ i, (s.entry i).state ≠ .free → (settle s (deliverHead g pkt s)).entry i = s.entry i := fun i used => by
      rw [moves.entries i (by rw [ends.entry, gone.entry]; exact used), ends.entry, gone.entry]
    have heldEnd : (notify s none (settle s (deliverHead g pkt s))).ports.held =
        s.ports.held.set (.target g) (s.ports.held.get (.target g) - 1) := by
      rw [notify_ports]
      exact held.trans (by rw [gone.frame])
    refine ⟨_, exec_delivery running up credit queue, heldEnd, ?_, ?_, fun i used => by rw [notify_entry, kept i used], ?_,
      fun idle drainless => ?_, _, gone.uncounted, gone.counted, ?_, fun calm => ⟨handOut_settle s none _ calm, ?_⟩⟩
    · have sent : (completeDrains (deliverHead g pkt s)).sent = s.sent ++ [(.target g, .egress pkt)] := by
        rw [ends.rest, gone.frame]
      rw [notify_sent, ← sent]
      exact moves.sent
    · have egress : (completeDrains (deliverHead g pkt s)).egress g = rest := by rw [ends.egress, gone.egress, if_pos rfl]
      rw [notify_egress, ← egress]
      exact moves.egress g
    · rw [notify_ports]
      exact link.trans (by rw [gone.frame])
    · have still : settle s (deliverHead g pkt s) = deliverHead g pkt s := settle_idle s _ (gone.noDrains drainless) (gone.noHostWaits idle)
      rw [still, notify_same _ _ gone.events]
      refine ⟨gone.uncounted, gone.counted, ?_⟩
      conv_lhs => rw [gone.frame]
      rw [gone.frame]
    · rw [heldEnd]
      exact gone.frame
    · intro h a d hop first head forward target mirrorless room
      have taken := gone.taken queue first head forward target mirrorless room
      obtain ⟨egress, position, ingress, mark, sent⟩ := gone.placed h d hop
      have settled : settle s (deliverHead g pkt s) = offerFreed s (deliverHead g pkt s) := by
        unfold settle
        rw [completeDrains_busy _ calm]
      rw [settled, taken]
      exact ⟨by rw [notify_egress, egress], by rw [notify_ports]; exact position, by rw [notify_ingress, ingress],
        by rw [notify_mark, mark], by rw [notify_sent, sent]⟩
  · have mark : (s.setMark h .clear).mark h = .clear := State.setMark_mark_self ..
    have phase : isRunning (s.setMark h .clear) = true := (isRunning_iff _).2 running
    refine ⟨notify (s.setMark h .clear) none (attempt h none s), ?_, noticesFollow_notify ..⟩
    rw [← attempt_setMark]
    exact if_pos ⟨phase, mark⟩

end Sys2Proof.Machine
end

section
/-! PROOFS. Sending from a return queue. -/

namespace Sys2Proof.Machine

/-! ### The head of a return queue leaves (R65, R75, R152) -/

/-- The head has left and its credit is spent, before what it frees is freed. -/
def headSent (src : Source) (pkt : ReturnPacket) (rest : List ReturnPacket) (s : State) : State :=
  { s with
    ports := { s.ports with
      held := s.ports.held.set src.port (s.ports.held.get src.port - 1), returns := s.ports.returns.set src rest }
    sent := s.sent ++ [(src.port, .back pkt)] }

theorem sendHead_eq {s : State} {src : Source} {pkt : ReturnPacket} {rest : List ReturnPacket} (queue : s.returns src = pkt :: rest) :
    sendHead src pkt s = releaseSent src pkt (headSent src pkt rest s) := by
  unfold sendHead
  rw [queue]
  rfl

theorem exec_returnQueueSending {s : State} {src : Source} {pkt : ReturnPacket} {rest : List ReturnPacket}
    (running : s.ctl.phase = .running) (up : s.link src.port = .up) (credit : s.ports.held.get src.port ≠ 0)
    (queue : s.returns src = pkt :: rest) :
    exec (.returnQueueSending src) s =
      .next (notify s (promptOf src pkt) (offerFreed s (releaseSent src pkt (headSent src pkt rest s)))) := by
  have up' : isUp src.port s = true := by simp [isUp, up]
  rw [← sendHead_eq queue]
  change execReturnQueueSending src s = _
  unfold execReturnQueueSending
  rw [queue]
  exact if_pos ⟨(isRunning_iff s).2 running, up', credit⟩

theorem exec_returnQueueSending_still {s : State} {src : Source} (still : s.link src.port ≠ .up ∨ s.ports.held.get src.port = 0) :
    exec (.returnQueueSending src) s = .next s := by
  change execReturnQueueSending src s = _
  unfold execReturnQueueSending
  split
  · rfl
  · refine if_neg ?_
    rintro ⟨_, up, credit⟩
    rcases still with down | empty
    · exact down (by simpa [isUp] using up)
    · exact credit empty

/-- What a sent packet frees: an entry, an order's place, or nothing. -/
theorem releaseSent_cases (src : Source) (pkt : ReturnPacket) (s : State) :
    (∃ i, releaseSent src pkt s = freeEntry i s) ∨ (∃ q, releaseSent src pkt s = returnOrderCredit src (s.setOrders src q)) ∨
      releaseSent src pkt s = s := by
  unfold releaseSent
  cases pkt with
  | reply i tag st d =>
    dsimp only
    split
    · exact .inl ⟨i, rfl⟩
    · exact .inr (.inr rfl)
  | orderReply q code st rs =>
    dsimp only
    split
    · exact .inr (.inl ⟨_, rfl⟩)
    · exact .inr (.inr rfl)
  | notice fs => exact .inr (.inr rfl)
  | notification a v => exact .inr (.inr rfl)

/-- What the freeing leaves alone. -/
structure ReleaseKeeps (s t : State) : Prop where
  dir : t.dir = s.dir
  fwd : t.fwd = s.fwd
  events : t.events = s.events
  held : t.ports.held = s.ports.held
  link : t.ports.link = s.ports.link
  egress : t.ports.egress = s.ports.egress
  returns : t.ports.returns = s.ports.returns
  sent : s.sent <+: t.sent

theorem releaseSent_keeps (src : Source) (pkt : ReturnPacket) (s : State) : ReleaseKeeps s (releaseSent src pkt s) := by
  rcases releaseSent_cases src pkt s with ⟨i, eq⟩ | ⟨q, eq⟩ | eq <;> rw [eq]
  · exact ⟨rfl, rfl, rfl, rfl, rfl, rfl, rfl, List.prefix_rfl⟩
  · exact ⟨rfl, rfl, rfl, rfl, rfl, rfl, rfl, List.prefix_append _ _⟩
  · exact ⟨rfl, rfl, rfl, rfl, rfl, rfl, rfl, List.prefix_rfl⟩

/-! ### What each kind of packet frees -/

theorem releaseSent_reply {s : State} {src : Source} {i : Fin Config.replyEntries} {tag : BitVec 8} {st : Status} {d : List Byte}
    {a : Answered} (answered : (s.entry i).state = .answered a) : releaseSent src (.reply i tag st d) s = freeEntry i s := by
  unfold releaseSent
  dsimp only
  rw [answered]

theorem releaseSent_orderReply {s : State} {src : Source} {q code : Byte} {st : Status} {rs : List Byte}
    {older newer : List OrderEntry} {e : OrderEntry} (queue : s.orders src = older ++ e :: newer)
    (before : ∀ x ∈ older, isAnsweredAs q x = false) (answered : isAnsweredAs q e = true) :
    releaseSent src (.orderReply q code st rs) s = returnOrderCredit src (s.setOrders src (older ++ newer)) := by
  have any : (s.orders src).any (isAnsweredAs q) = true := by
    rw [queue, List.any_eq_true]
    exact ⟨e, List.mem_append_right _ (List.mem_cons_self ..), answered⟩
  have erased : (s.orders src).eraseP (isAnsweredAs q) = older ++ newer := by
    rw [queue, List.eraseP_append_right _ fun x hx => by rw [before x hx]; exact Bool.false_ne_true,
      List.eraseP_cons_of_pos answered]
  unfold releaseSent
  dsimp only
  rw [if_pos any, erased]

/-! ### Packets that free nothing that hosts wait for -/

section unfreed

variable {s : State} {src : Source} {pkt : ReturnPacket} {rest : List ReturnPacket}

/-- An ORDER_REPLY's place goes back with one ORDER credit, and nothing is offered (R75). -/
theorem sent_orderReply {q code : Byte} {st : Status} {rs : List Byte} {older newer : List OrderEntry} {e : OrderEntry}
    (queue : s.orders src = older ++ e :: newer) (before : ∀ x ∈ older, isAnsweredAs q x = false)
    (answered : isAnsweredAs q e = true) :
    notify s (promptOf src (.orderReply q code st rs))
        (offerFreed s (releaseSent src (.orderReply q code st rs) (headSent src (.orderReply q code st rs) rest s))) =
      returnOrderCredit src ((headSent src (.orderReply q code st rs) rest s).setOrders src (older ++ newer)) := by
  have nothing : offerFreed s
      (returnOrderCredit src ((headSent src (.orderReply q code st rs) rest s).setOrders src (older ++ newer))) = _ :=
    offerFreed_nothing (fun _ used => used) (fun _ => Nat.le_refl _)
  rw [releaseSent_orderReply (s := headSent src (.orderReply q code st rs) rest s) queue before answered, nothing]
  exact notify_same _ _ (by rfl)

theorem offerFreed_headSent : offerFreed s (headSent src pkt rest s) = headSent src pkt rest s :=
  offerFreed_nothing (fun _ used => used) (fun _ => Nat.le_refl _)

theorem headSent_returns : (headSent src pkt rest s).returns src = rest := PerSource.get_set_self ..

end unfreed

/-! ### A REPLY's entry and the first host that waits for it (R46, R65) -/

/-- The state in which the entry of a sent REPLY is FREE, before it is offered. -/
def replySent (i : Fin Config.replyEntries) (src : Source) (pkt : ReturnPacket) (rest : List ReturnPacket) (s : State) : State :=
  freeEntry i (headSent src pkt rest s)

section replySent

variable (i : Fin Config.replyEntries) (src : Source) (pkt : ReturnPacket) (rest : List ReturnPacket) (s : State)

theorem replySent_entry_self : (replySent i src pkt rest s).entry i = ⟨(s.entry i).epoch + 1, .free⟩ := State.setEntry_entry_self ..

theorem replySent_entry_ne {k : Fin Config.replyEntries} (other : k ≠ i) : (replySent i src pkt rest s).entry k = s.entry k :=
  State.setEntry_entry_ne (headSent src pkt rest s) i _ other

theorem replySent_offers (used : (s.entry i).state ≠ .free) :
    offerFreed s (replySent i src pkt rest s) = offerEntry i (replySent i src pkt rest s) := by
  refine offerFreed_entry used (by rw [replySent_entry_self]) (fun k other used => ?_) fun _ => Nat.le_refl _
  rw [replySent_entry_ne _ _ _ _ _ other]
  exact used

theorem replySent_lookup (h : HostId) (r : Request) : lookup (replySent i src pkt rest s) h r = lookup s h r :=
  lookup_congr (fun _ => ⟨rfl, rfl⟩) rfl rfl rfl rfl h r

end replySent

section offered

variable {v : State} {h : HostId} {i : Fin Config.replyEntries} {tag : BitVec 8} {x : Addr} {n : Nat}
  (first : FirstInTurn (.entry i) v h) (head : (v.ingress h).head? = some (.fetch tag x n)) (fresh : ¬DuplicateTag v h tag)
  (free : (v.entry i).state = .free)
include first head fresh free

/-- The first host that waits, where its FETCH is refused (R44, R46). -/
theorem offerEntry_refused {st : Status} (refused : lookup v h (.fetch tag x n) = .refused st) :
    (offerEntry i v).entry i = ⟨(v.entry i).epoch, .answered ⟨h, tag, v.ports.session.get h, none, st, []⟩⟩ ∧
      (offerEntry i v).returns (.host h) = v.returns (.host h) ++ [.reply i tag st []] ∧ (offerEntry i v).table.position = h ∧
      (offerEntry i v).ingress h = (v.ingress h).tail ∧ (offerEntry i v).mark h = .clear := by
  have attempts := attempt_fetch_refused head fresh refused free
  have entry : (attempt h (some i) v).entry i = ⟨(v.entry i).epoch, .answered ⟨h, tag, v.ports.session.get h, none, st, []⟩⟩ := by
    rw [attempts]
    exact State.setEntry_entry_self ..
  rw [offerEntry_first first (by rw [entry]; exact nofun)]
  refine ⟨entry, ?_, rfl, ?_, ?_⟩
  all_goals rw [attempts]
  · exact State.setReturns_returns_self ..
  · exact PerHost.get_set_self ..
  · exact PerHost.get_set_self ..

/-- The first host that waits, where its FETCH is forwarded (R41, R46). -/
theorem offerEntry_forwarded {hop : Hop} (forward : lookup v h (.fetch tag x n) = .forward hop)
    (room : (v.egress hop.target).length < 16) :
    (offerEntry i v).entry i = ⟨(v.entry i).epoch,
        .waiting ⟨h, tag, v.ports.session.get h, false, n, hop.route, hop.target, v.eng.replyLimit⟩⟩ ∧
      (offerEntry i v).egress hop.target = v.egress hop.target ++ [.fetch i (v.entry i).epoch hop.address n] ∧
      (offerEntry i v).table.position = h ∧ (offerEntry i v).ingress h = (v.ingress h).tail ∧
      (offerEntry i v).mark h = .clear := by
  have attempts := attempt_fetch_forward head fresh forward free room
  obtain ⟨-, frame⟩ := raiseCount_spec hop.route
    (pushEgress hop.target (.fetch i (v.entry i).epoch hop.address n)
      ((takeHead h (v.setMark h .clear)).setEntry i ⟨(v.entry i).epoch,
        .waiting ⟨h, tag, v.ports.session.get h, false, n, hop.route, hop.target, v.eng.replyLimit⟩⟩))
  have made : attempt h (some i) v = _ := attempts.trans frame
  have entry : (attempt h (some i) v).entry i = ⟨(v.entry i).epoch,
      .waiting ⟨h, tag, v.ports.session.get h, false, n, hop.route, hop.target, v.eng.replyLimit⟩⟩ := by
    rw [made]
    exact State.setEntry_entry_self ..
  rw [offerEntry_first first (by rw [entry]; exact nofun)]
  refine ⟨entry, ?_, rfl, ?_, ?_⟩
  all_goals rw [made]
  · exact State.setEgress_egress_self ..
  · exact PerHost.get_set_self ..
  · exact PerHost.get_set_self ..

end offered

/-- A sent REPLY frees its entry, under the next epoch, and leaves every other entry in use (R65). -/
theorem replySent_entries {s : State} {i : Fin Config.replyEntries} (src : Source) (pkt : ReturnPacket) (rest : List ReturnPacket) :
    let t := offerFreed s (replySent i src pkt rest s)
    (t.entry i).epoch = (s.entry i).epoch + 1 ∧ (NoHostWaits s → (t.entry i).state = .free) ∧
      ∀ k, k ≠ i → (s.entry k).state ≠ .free → t.entry k = s.entry k := by
  have moves := moves_offerFreed s (replySent i src pkt rest s)
  refine ⟨?_, fun idle => ?_, fun k other used => ?_⟩
  · rw [moves.epochs, replySent_entry_self]
  · have idle' : NoHostWaits (replySent i src pkt rest s) := idle
    rw [offerFreed_idle _ _ idle', replySent_entry_self]
  · rw [moves.entries k (by rw [replySent_entry_ne _ _ _ _ _ other]; exact used), replySent_entry_ne _ _ _ _ _ other]

/-- Settles O44: the head has left (`headSent`), and each kind of packet frees its own. -/
theorem returnQueueSendsHead : Obligations.ReturnQueueSendsHead := by
  unfold Obligations.ReturnQueueSendsHead
  intro s src pkt rest queue
  refine ⟨fun running up credit => ?_, exec_returnQueueSending_still⟩
  have keeps := releaseSent_keeps src pkt (headSent src pkt rest s)
  have moves := moves_offerFreed s (releaseSent src pkt (headSent src pkt rest s))
  have held : (notify s (promptOf src pkt) (offerFreed s (releaseSent src pkt (headSent src pkt rest s)))).ports.held =
      s.ports.held.set src.port (s.ports.held.get src.port - 1) := by
    rw [notify_ports]
    exact moves.held.trans keeps.held
  refine ⟨_, exec_returnQueueSending running up credit queue, held, ?_, ?_, ?_, ?_, ?_, ?_, ?_, fun idle => ?_⟩
  · rw [notify_sent]
    exact keeps.sent.trans moves.sent
  · have returns : (releaseSent src pkt (headSent src pkt rest s)).returns src = rest := by
      unfold State.returns
      rw [keeps.returns]
      exact headSent_returns
    have grows := (moves.returns src).trans (notify_returns s (promptOf src pkt) _ src)
    rwa [returns] at grows
  · rintro i tag st d a rfl answered
    rw [releaseSent_reply (s := headSent src (.reply i tag st d) rest s) answered]
    obtain ⟨epoch, free, others⟩ := replySent_entries (s := s) (i := i) src (.reply i tag st d) rest
    refine ⟨by rw [notify_entry]; exact epoch, fun idle => by rw [notify_entry]; exact free idle, fun k other used => ?_⟩
    rw [notify_entry]
    exact others k other used
  · rintro q code st rs older e newer rfl orders before answered
    rw [sent_orderReply orders before answered]
    exact ⟨List.append_assoc s.sent _ _, rfl⟩
  · rintro fs rfl rfl owed
    obtain ⟨mark, returns⟩ := notify_prompts_mgmt s (s := headSent .mgmt (.notice fs) rest s) owed
    have sent : offerFreed s (releaseSent .mgmt (.notice fs) (headSent .mgmt (.notice fs) rest s)) =
        headSent .mgmt (.notice fs) rest s := offerFreed_headSent
    rw [sent]
    exact ⟨mark, returns⟩
  · rintro a v h rfl rfl setting owed
    obtain ⟨mark, returns⟩ := notify_prompts_host s (s := headSent (.host h) (.notification a v) rest s) setting owed
    have sent : offerFreed s (releaseSent (.host h) (.notification a v) (headSent (.host h) (.notification a v) rest s)) =
        headSent (.host h) (.notification a v) rest s := offerFreed_headSent
    rw [headSent_returns] at returns
    rw [sent]
    exact ⟨mark, returns⟩
  · rintro i tag st d x rfl answered
    refine ⟨replySent i src (.reply i tag st d) rest s, by rw [held]; rfl, ?_, fun h tag' a n first head fresh => ?_⟩
    · rw [releaseSent_reply (s := headSent src (.reply i tag st d) rest s) answered]
      exact handOut_notify s _ _
    · have offers : offerFreed s (releaseSent src (.reply i tag st d) (headSent src (.reply i tag st d) rest s)) =
          offerEntry i (replySent i src (.reply i tag st d) rest s) := by
        rw [releaseSent_reply (s := headSent src (.reply i tag st d) rest s) answered]
        exact replySent_offers i src _ rest s (by rw [answered]; exact nofun)
      have free : ((replySent i src (.reply i tag st d) rest s).entry i).state = .free := by rw [replySent_entry_self]
      have first' : FirstInTurn (.entry i) (replySent i src (.reply i tag st d) rest s) h := first
      have head' : ((replySent i src (.reply i tag st d) rest s).ingress h).head? = some (.fetch tag' a n) := head
      rw [offers]
      refine ⟨fun st' refused => ?_, fun hop forward room => ?_⟩
      · obtain ⟨entry, returns, position, ingress, mark⟩ :=
          offerEntry_refused first' head' fresh free ((replySent_lookup ..).trans refused)
        rw [replySent_entry_self] at entry
        refine ⟨by rw [notify_entry, entry]; rfl, ?_, by rw [notify_table, position], by rw [notify_ingress, ingress]; rfl,
          by rw [notify_mark, mark]⟩
        rw [← returns]
        exact notify_returns ..
      · obtain ⟨entry, egress, position, ingress, mark⟩ :=
          offerEntry_forwarded first' head' fresh free ((replySent_lookup ..).trans forward) room
        rw [replySent_entry_self] at entry egress
        exact ⟨by rw [notify_entry, entry]; rfl, by rw [notify_egress, egress]; rfl, by rw [notify_table, position],
          by rw [notify_ingress, ingress]; rfl, by rw [notify_mark, mark]⟩
  · have idle' : NoHostWaits (releaseSent src pkt (headSent src pkt rest s)) := by
      unfold NoHostWaits State.mark
      rw [keeps.fwd]
      exact idle
    rw [offerFreed_idle _ _ idle']
    exact ⟨by rw [notify_dir, keeps.dir]; rfl, by rw [notify_fwd, keeps.fwd]; rfl, by rw [notify_ports]; exact keeps.egress,
      by rw [notify_ports]; exact keeps.link⟩

end Sys2Proof.Machine
end

section
/-! PROOFS. The session end of a host port. -/

namespace Sys2Proof.Machine

/-! ### What the attempts of other hosts leave alone -/

/-- A host's ingress queue, its return queue and its unused REQUEST grant are as they were. -/
structure HostStill (h : HostId) (s t : State) : Prop where
  ingress : t.ingress h = s.ingress h
  returns : t.returns (.host h) = s.returns (.host h)
  grant : t.ports.grantedRequest.get h = s.ports.grantedRequest.get h

theorem HostStill.refl (h : HostId) (s : State) : HostStill h s s := ⟨rfl, rfl, rfl⟩

theorem HostStill.trans {h : HostId} {s t u : State} (a : HostStill h s t) (b : HostStill h t u) : HostStill h s u :=
  ⟨b.ingress.trans a.ingress, b.returns.trans a.returns, b.grant.trans a.grant⟩

theorem placePost_still (h k : HostId) (d : List Byte) (hop : Hop) (g : TargetId) (s : State) :
    HostStill h s (placePost k d hop g s) := by
  have ports := raiseCount_ports hop.route (pushEgress g (.post hop.route k hop.address d) s)
  refine ⟨?_, ?_, ?_⟩
  · unfold placePost State.ingress
    rw [show (raiseCount hop.route (pushEgress g (.post hop.route k hop.address d) s)).fwd = s.fwd by
      cases hop.route <;> rfl]
  · unfold placePost State.returns
    rw [ports]
    rfl
  · unfold placePost
    rw [ports]
    rfl

theorem forwardFetch_still (h k : HostId) (tag : BitVec 8) (n : Nat) (hop : Hop) (i : Fin Config.replyEntries) (s : State) :
    HostStill h s (forwardFetch k tag n hop i s) := by
  have fwd : ∀ u, (raiseCount hop.route u).fwd = u.fwd := fun u => by cases hop.route <;> rfl
  refine ⟨?_, ?_, ?_⟩
  · unfold forwardFetch State.ingress
    dsimp only
    rw [fwd]
    rfl
  · unfold forwardFetch State.returns
    dsimp only
    rw [raiseCount_ports]
    rfl
  · unfold forwardFetch
    dsimp only
    rw [raiseCount_ports]
    rfl

theorem answerRefused_still {h k : HostId} (hne : h ≠ k) (tag : BitVec 8) (st : Status) (i : Fin Config.replyEntries)
    (s : State) : HostStill h s (answerRefused k tag st i s) :=
  ⟨rfl, PerSource.get_set_ne _ _ (fun e => hne (Source.host.inj e)), rfl⟩

theorem takeHead_still {h k : HostId} (hne : h ≠ k) (s : State) : HostStill h s (takeHead k s) :=
  ⟨PerHost.get_set_ne _ _ hne, rfl, PerHost.get_set_ne _ _ hne⟩

theorem forwardPost_still (h k : HostId) (d : List Byte) (hop : Hop) (s : State) : HostStill h s (forwardPost k d hop s) := by
  have primary := placePost_still h k d hop hop.target s
  unfold forwardPost
  dsimp only
  split
  · exact primary.trans (placePost_still ..)
  · split
    · exact ⟨primary.ingress, primary.returns, primary.grant⟩
    · exact primary

theorem carryOut_still {h k : HostId} (hne : h ≠ k) (o : Option (Fin Config.replyEntries)) (plan : Plan) (s : State) :
    HostStill h s (carryOut k o plan s) := by
  unfold carryOut
  split
  · exact ⟨rfl, rfl, rfl⟩
  · exact ⟨rfl, rfl, rfl⟩
  · split
    · exact answerRefused_still hne ..
    · exact .refl ..
  · split
    · exact forwardFetch_still ..
    · exact .refl ..
  · exact forwardPost_still ..

/-- An attempt changes nothing of a host whose ingress queue is empty but that host's own mark. -/
theorem attempt_still {h : HostId} (k : HostId) (o : Option (Fin Config.replyEntries)) {s : State} (empty : s.ingress h = []) :
    HostStill h s (attempt k o s) := by
  have unmarked : ∀ m, HostStill h s (s.setMark k m) := fun m => ⟨rfl, rfl, rfl⟩
  unfold attempt
  dsimp only
  split
  · exact unmarked _
  · next r rest head =>
    split
    · have hne : h ≠ k := by
        rintro rfl
        exact nomatch empty.symm.trans head
      exact (unmarked _).trans ((takeHead_still hne _).trans (carryOut_still hne _ _ _))
    · exact ⟨rfl, rfl, rfl⟩

/-- What an event hands out leaves a host alone whose ingress queue is empty. -/
theorem offerFreed_still {h : HostId} (before : State) {s : State} (empty : s.ingress h = []) :
    HostStill h s (offerFreed before s) :=
  rel_offerFreed (R := fun s t => s.ingress h = [] → HostStill h s t) (fun s _ => .refl h s)
    (fun _ _ _ a b e => (a e).trans (b ((a e).ingress.trans e))) (fun k o _ e => attempt_still k o e)
    (fun _ _ _ => ⟨rfl, rfl, rfl⟩) (fun _ _ _ _ => ⟨rfl, rfl, rfl⟩) before s empty

/-! ### A notification that is owed stays owed -/

theorem notifyHost_keepsOwed (h : HostId) (o : Bool) {s : State} (owed : s.events.notificationOwed = true) :
    (notifyHost h o false s).events.notificationOwed = true := by
  unfold notifyHost
  dsimp only
  rw [Bool.false_and, if_neg Bool.false_ne_true]
  split
  · split
    · exact owed
    · rfl
  · exact owed

theorem notify_keepsOwed (before : State) {s : State} (owed : s.events.notificationOwed = true) :
    (notify before none s).events.notificationOwed = true := by
  cases setting : s.events.setting.host with
  | none => rw [notify_noHost setting, owed]
  | some k =>
    rw [(notify_host setting before none).2]
    exact notifyHost_keepsOwed k _ owed

/-- The end of an event keeps what a flag shows. -/
theorem notify_shows {f : Flag} {p : Port} {s : State} (shows' : FlagShows f p s) (before : State) (prompt : Option Port) :
    FlagShows f p (notify before prompt s) := by
  unfold FlagShows
  rw [notify_events]
  exact shows'

/-! ### The state that a host's session end leaves before the hand-out -/

/-- A host port's session has ended; what it frees has not been handed out (R156). -/
def hostEnded (h : HostId) (l : LinkState) (n : Nat) (s : State) : State := endHostSession h n (s.setLink (.host h) l)

section hostEnded

variable (h : HostId) (l : LinkState) (n : Nat) (s : State)

theorem hostEnded_entry (i : Fin Config.replyEntries) : (hostEnded h l n s).entry i = orphanedEntry h (s.entry i) := by
  unfold hostEnded State.entry
  rw [endHostSession_eq]
  exact Vector.getElem_ofFn i.isLt

theorem hostEnded_events : (hostEnded h l n s).events = raiseFlag .hostDown (portMask (.host h))
    { s.events with notificationOwed := s.events.notificationOwed || losesNotification h s } := by
  unfold hostEnded
  rw [endHostSession_eq]

theorem hostEnded_raised : FlagRaised .hostDown (portMask (.host h)) s (hostEnded h l n s) := by
  have raised := flagRaised_raise .hostDown (portMask (.host h))
    { s with events := { s.events with notificationOwed := s.events.notificationOwed || losesNotification h s } } _
    (hostEnded_events h l n s)
  exact raised

theorem hostEnded_dir : (hostEnded h l n s).dir = s.dir := by unfold hostEnded; rw [endHostSession_eq]

theorem hostEnded_fwd : (hostEnded h l n s).fwd =
    { s.fwd with ingress := s.fwd.ingress.set h [], waiting := s.fwd.waiting.set h .clear } := by
  unfold hostEnded; rw [endHostSession_eq]

theorem hostEnded_eng : (hostEnded h l n s).eng =
    { s.eng with orders := s.eng.orders.set (.host h) (silenced (s.orders (.host h))) } := by
  unfold hostEnded; rw [endHostSession_eq]

theorem hostEnded_ports : (hostEnded h l n s).ports = { s.ports with
    link := s.ports.link.set (.host h) l, held := s.ports.held.set (.host h) n
    grantedRequest := s.ports.grantedRequest.set h 0, grantedOrder := s.ports.grantedOrder.set (.host h) 0
    session := s.ports.session.set h (s.ports.session.get h + 1), returns := s.ports.returns.set (.host h) [] } := by
  unfold hostEnded; rw [endHostSession_eq]

theorem hostEnded_ctl : (hostEnded h l n s).ctl = s.ctl := by unfold hostEnded; rw [endHostSession_eq]

theorem hostEnded_sent : (hostEnded h l n s).sent = s.sent := by unfold hostEnded; rw [endHostSession_eq]

theorem hostEnded_frame : hostEnded h l n s = { s with
    fwd := { s.fwd with ingress := s.fwd.ingress.set h [], waiting := s.fwd.waiting.set h .clear }
    table := { s.table with entries := (hostEnded h l n s).table.entries }
    eng := (hostEnded h l n s).eng
    ports := { s.ports with
      link := (hostEnded h l n s).ports.link, held := (hostEnded h l n s).ports.held
      grantedRequest := s.ports.grantedRequest.set h 0, grantedOrder := (hostEnded h l n s).ports.grantedOrder
      session := (hostEnded h l n s).ports.session, returns := s.ports.returns.set (.host h) [] }
    events := (hostEnded h l n s).events } := by
  unfold hostEnded
  rw [endHostSession_eq]

theorem hostEnded_empty : (hostEnded h l n s).ingress h = [] := by
  unfold State.ingress
  rw [hostEnded_fwd]
  exact PerHost.get_set_self ..

theorem hostEnded_mark : (hostEnded h l n s).mark h = .clear := by
  unfold State.mark
  rw [hostEnded_fwd]
  exact PerHost.get_set_self ..

theorem hostEnded_returns : (hostEnded h l n s).returns (.host h) = [] := by
  unfold State.returns
  rw [hostEnded_ports]
  exact PerSource.get_set_self s.ports.returns (.host h) []

theorem hostEnded_link : (hostEnded h l n s).link (.host h) = l := by
  unfold State.link
  rw [hostEnded_ports]
  exact PerPort.get_set_self s.ports.link (.host h) l

/-- A host's session end changes no window, count or job, so that no drain completes with it. -/
theorem hostEnded_noDrainEnds (follows : DrainsFollowWindows s) (traffic : DrainingHasTraffic s) :
    NoDrainEnds (hostEnded h l n s) := by
  intro j hj
  rw [hostEnded_eng] at hj
  unfold State.slot
  rw [hostEnded_dir]
  exact job_hasTraffic follows traffic hj

theorem hostEnded_noHostWaits (idle : NoHostWaits s) : NoHostWaits (hostEnded h l n s) := by
  intro k
  by_cases same : k = h
  · rw [same]
    exact hostEnded_mark h l n s
  · unfold State.mark
    rw [hostEnded_fwd]
    exact (PerHost.get_set_ne _ _ same).trans (idle k)

end hostEnded

theorem orphanedEntry_waiting {h : HostId} {e : Entry} {w : Waiting} (hw : e.state = .waiting w) :
    orphanedEntry h e = ⟨e.epoch, .waiting { w with orphan := if w.host = h then true else w.orphan }⟩ := by
  unfold orphanedEntry
  rw [hw]
  dsimp only
  split
  · rfl
  · rw [← hw]

theorem orphanedEntry_answered {h : HostId} {e : Entry} {a : Answered} (ha : e.state = .answered a) :
    orphanedEntry h e = if a.host = h then ⟨e.epoch + 1, .free⟩ else e := by
  unfold orphanedEntry
  rw [ha]

/-- Only a session in being can end, so that the port is not UP afterwards. -/
theorem EndsSession.notUp {s : State} {p : Port} {c : Instr} {l : LinkState} {n : Nat} (ends : EndsSession s p c l n) : l ≠ .up := by
  rcases ends.2 with ⟨rfl, -⟩ | ⟨rfl, -⟩ | ⟨rfl, -⟩ <;> nofun

/-- Settles O28: the session end is one record, no drain completes with it, and the offers that follow leave the lost host's own
queue, mark, return queue and grant alone, since its ingress queue is empty. -/
theorem hostSessionEnds : Obligations.HostSessionEnds := by
  unfold Obligations.HostSessionEnds
  intro s h c l n running ends follows traffic
  have busy := hostEnded_noDrainEnds h l n s follows traffic
  have settled : settle s (hostEnded h l n s) = offerFreed s (hostEnded h l n s) := by
    unfold settle
    rw [completeDrains_busy _ busy]
  have result : exec c s = .next (notify s none (offerFreed s (hostEnded h l n s))) := by
    rw [exec_endsSession running ends, ← settled]
    rfl
  have idle : NoHostWaits s → offerFreed s (hostEnded h l n s) = hostEnded h l n s := fun none =>
    offerFreed_idle s _ (hostEnded_noHostWaits h l n s none)
  have moves := moves_offerFreed s (hostEnded h l n s)
  have still := offerFreed_still s (hostEnded_empty h l n s)
  have mark := (idle_offerFreed h s (hostEnded h l n s) (hostEnded_mark h l n s)).1
  have ports := hostEnded_ports h l n s
  have entry := hostEnded_entry h l n s
  have raised := hostEnded_raised h l n s
  have handed := handOut_notify s none (hostEnded h l n s)
  have notices := fun u => notify_noticesOnly s none u
  refine ⟨_, result, ?link, ?held, ?grantedRequest, ?grantedOrder, ?session, ?returns, ?ingress, ?mark, ?eng, ?waiting, ?others,
    ?answered, ?shows, ?windows, ?ctl, ?barredHost, ?barredTarget, ?owed, ?handOut, ?idle⟩
  case link => rw [notify_ports]; exact moves.link.trans (by rw [ports])
  case held => rw [notify_ports]; exact moves.held.trans (by rw [ports])
  case grantedRequest => rw [notify_ports]; exact still.grant.trans (by rw [ports]; exact PerHost.get_set_self _ _ _)
  case grantedOrder => rw [notify_ports]; exact moves.grantedOrder.trans (by rw [ports])
  case session => rw [notify_ports]; exact moves.session.trans (by rw [ports])
  case returns =>
    have down : (offerFreed s (hostEnded h l n s)).link (.host h) ≠ .up := by
      unfold State.link
      rw [moves.link]
      exact fun up => ends.notUp ((hostEnded_link h l n s).symm.trans up)
    rw [notify_returns_down (prompt := none) (src := .host h) down nofun]
    exact still.returns.trans (hostEnded_returns h l n s)
  case ingress => rw [notify_ingress]; exact still.ingress.trans (hostEnded_empty h l n s)
  case mark => rw [notify_mark]; exact mark
  case eng => rw [notify_eng]; exact moves.eng.trans (hostEnded_eng h l n s)
  case waiting =>
    intro i w hw
    have ended : (hostEnded h l n s).entry i =
        ⟨(s.entry i).epoch, .waiting { w with orphan := if w.host = h then true else w.orphan }⟩ := by
      rw [entry i, orphanedEntry_waiting hw]
    rw [notify_entry, moves.entries i (by rw [ended]; nofun), ended]
  case others =>
    intro i a ha other
    have ended : (hostEnded h l n s).entry i = s.entry i := by
      rw [entry i, orphanedEntry_answered ha, if_neg other]
    rw [notify_entry, moves.entries i (by rw [ended, ha]; nofun), ended]
  case answered =>
    intro i a ha own
    have ended : (hostEnded h l n s).entry i = ⟨(s.entry i).epoch + 1, .free⟩ := by
      rw [entry i, orphanedEntry_answered ha, if_pos own]
    rw [notify_entry, moves.epochs i, ended]
    refine ⟨rfl, fun none => ?_⟩
    rw [idle none, ended]
  case shows => exact notify_shows (moves.shows _ _ raised.shows) s none
  case windows =>
    intro i
    rw [notify_slot]
    exact ⟨(moves.windows i).1.trans (by unfold State.slot; rw [hostEnded_dir]),
      (moves.windows i).2.trans (by unfold State.slot; rw [hostEnded_dir])⟩
  case ctl => rw [notify_ctl]; exact moves.ctl.trans (hostEnded_ctl h l n s)
  case barredHost => rw [notify_ports]; exact moves.barredHost.trans (by rw [ports])
  case barredTarget => rw [notify_ports]; exact moves.barredTarget.trans (by rw [ports])
  case owed =>
    intro lost notified
    refine notify_keepsOwed s ?_
    rw [moves.notificationOwed, hostEnded_events, raiseFlag_notificationOwed]
    have both : losesNotification h s = true := by
      unfold losesNotification
      rw [lost, notified]
      exact beq_self_eq_true _
    rw [both, Bool.or_true]
  case handOut =>
    refine ⟨hostEnded h l n s, handed, fun none => ?_, entry, raised, ?_, ?_, ?_⟩
    · rw [idle none]; exact noticesFollow_notify ..
    · rw [hostEnded_events]; rfl
    · rw [hostEnded_events]; rfl
    · rw [notify_eng, notify_ports, moves.eng, moves.link, moves.held, moves.grantedOrder, moves.session]
      exact hostEnded_frame h l n s
  case idle =>
    intro none
    rw [idle none]
    have after := hostEnded_noHostWaits h l n s none
    refine ⟨notify_flagRaised _ _ _ raised, ?_, ?_, ?_, ?_, fun other hne => ?_, ?_⟩
    · rw [notify_dir, hostEnded_dir]
    · rw [notify_sent, hostEnded_sent]
    · rw [notify_ports, ports]
    · rw [notify_ports, ports]
    · rw [notify_ingress]
      unfold State.ingress
      rw [hostEnded_fwd]
      exact PerHost.get_set_ne _ _ hne
    · refine (notices _).congr_left ?_
      rw [ports]
      rfl

end Sys2Proof.Machine
end

section
/-! PROOFS. The drains that complete at one event: windows, orders and replies, in the order of the drain list. -/

namespace Sys2Proof.Machine

/-! ### One drain that completes -/

theorem isTakenFor_unique {l : List OrderEntry} {i : Fin Config.slots} {x y : OrderEntry}
    (once : l.countP (isTakenFor i) ≤ 1) (hx : x ∈ l) (hy : y ∈ l) (xTaken : x.state = .taken i) (yTaken : y.state = .taken i) :
    x = y := by
  have picked : isTakenFor i x = true := by simp [isTakenFor, xTaken]
  have second : isTakenFor i y = true := by simp [isTakenFor, yTaken]
  obtain ⟨older, newer, rfl, before⟩ := split_at_only once hx picked
  rw [List.countP_append, List.countP_cons_of_pos picked] at once
  have after : newer.countP (isTakenFor i) = 0 := by omega
  rcases List.mem_append.1 hy with old | rest
  · rw [before y old] at second
    cases second
  · rcases List.mem_cons.1 rest with same | new
    · exact same.symm
    · exact absurd second (List.countP_eq_zero.1 after y new)

/-- The one TAKEN entry of a job tells whether its reply is owed. -/
theorem replyOwed_eq {s : State} {j : DrainJob} {e : OrderEntry} (once : (s.orders j.source).countP (isTakenFor j.handle.slot) ≤ 1)
    (order : e ∈ s.orders j.source) (held : e.state = .taken j.handle.slot) : replyOwed s j = !e.silent := by
  unfold replyOwed
  rw [Bool.eq_iff_iff, List.any_eq_true]
  constructor
  · rintro ⟨x, hx, both⟩
    rw [Bool.and_eq_true, beq_iff_eq] at both
    rw [isTakenFor_unique once order hx held both.1]
    exact both.2
  · intro speaks
    exact ⟨e, order, by simp [held, speaks]⟩

/-- The ORDER_REPLY DONE of a job's order. -/
def doneReply (j : DrainJob) : ReturnPacket := .orderReply j.sequence j.code .done []

/-- The order of a job is closed: its one TAKEN entry is removed if it is silent, or else ANSWERED with its reply queued. -/
structure JobCloses (j : DrainJob) (e : OrderEntry) (older newer : List OrderEntry) (s t : State) : Prop where
  queue : s.orders j.source = older ++ e :: newer
  held : e.state = .taken j.handle.slot
  sequence : e.sequence = j.sequence
  code : e.code = j.code
  orders : t.orders j.source = if e.silent = true then older ++ newer else older ++ { e with state := .answered } :: newer
  otherOrders : ∀ k, k ≠ j.source → t.orders k = s.orders k
  returns : t.returns j.source = s.returns j.source ++ if e.silent = true then [] else [doneReply j]
  otherReturns : ∀ k, k ≠ j.source → t.returns k = s.returns k

theorem jobCloses_completeJob {s : State} (hs : DrainsHeld s) {j : DrainJob} (job : j ∈ s.eng.drains) :
    ∃ e older newer, JobCloses j e older newer s (completeJob j s) := by
  obtain ⟨e, order, held, sequence, code⟩ := hs.2.held j job
  have once := hs.2.once j.source j.handle.slot
  have picked : isTakenFor j.handle.slot e = true := by simp [isTakenFor, held]
  have found := find_isTakenFor once order held
  obtain ⟨older, newer, queue, before⟩ := split_at_only once order picked
  have erased : (s.orders j.source).eraseP (isTakenFor j.handle.slot) = older ++ newer := by
    rw [queue, List.eraseP_append_right _ (fun y hy => by simp [before y hy]), List.eraseP_cons_of_pos picked]
  have answered : updateFirst (isTakenFor j.handle.slot) (fun e => { e with state := .answered }) (s.orders j.source) =
      older ++ { e with state := .answered } :: newer := by
    rw [queue, updateFirst_append _ _ _ _ _ before picked]
  have reply : ReturnPacket.orderReply e.sequence e.code .done [] = doneReply j := by rw [sequence, code]; rfl
  obtain ⟨u, closes, eng, ports⟩ : ∃ u, completeJob j s = closeOrder j.source j.handle.slot .done u ∧
      u.eng.orders = s.eng.orders ∧ u.ports.returns = s.ports.returns :=
    ⟨_, rfl, by rw [← carryOutPurpose_eng j.handle.slot s]; rfl, by rw [← carryOutPurpose_ports j.handle.slot s]; rfl⟩
  have orders : ∀ k, u.orders k = s.orders k := fun k => by unfold State.orders; rw [eng]
  have returns : ∀ k, u.returns k = s.returns k := fun k => by unfold State.returns; rw [ports]
  rw [← orders] at found erased answered
  have result : completeJob j s =
      if e.silent = true then u.setOrders j.source (older ++ newer)
      else pushReturn j.source (doneReply j) (u.setOrders j.source (older ++ { e with state := .answered } :: newer)) := by
    rw [closes]
    unfold closeOrder
    rw [found]
    dsimp only
    rw [erased, answered, reply]
  refine ⟨e, older, newer, queue, held, sequence, code, ?_, fun k other => ?_, ?_, fun k other => ?_⟩
  all_goals
    rw [result]
    split
  · exact State.setOrders_orders_self ..
  · exact State.setOrders_orders_self u j.source _
  · exact (orders_setOrders ..).trans ((if_neg other).trans (orders k))
  · exact (orders_setOrders u ..).trans ((if_neg other).trans (orders k))
  · rw [List.append_nil]
    exact returns _
  · exact (returns_pushReturn ..).trans ((if_pos rfl).trans (congrArg (· ++ [doneReply j]) (returns _)))
  · exact returns k
  · exact (returns_pushReturn ..).trans ((if_neg other).trans (returns k))

section job

variable {s : State} (hs : DrainsHeld s) {j : DrainJob} (job : j ∈ s.eng.drains)
include hs job

/-- The completion of a job places its order's reply, if it is owed, and no other packet (R122). -/
theorem completeJob_returns (src : Source) :
    (completeJob j s).returns src = s.returns src ++ if j.source = src ∧ replyOwed s j = true then [doneReply j] else [] := by
  obtain ⟨e, older, newer, closes⟩ := jobCloses_completeJob hs job
  have owed := replyOwed_eq (hs.2.once j.source j.handle.slot)
    (by rw [closes.queue]; exact List.mem_append_right _ List.mem_cons_self) closes.held
  by_cases own : j.source = src
  · subst own
    rw [closes.returns, owed]
    cases e.silent <;> simp
  · rw [closes.otherReturns src (Ne.symm own), if_neg fun both => own both.1, List.append_nil]

/-- An order that is not TAKEN for the job's slot stays where the job completes. -/
theorem mem_orders_completeJob {k : Source} {x : OrderEntry} (order : x ∈ s.orders k) (apart : x.state ≠ .taken j.handle.slot) :
    x ∈ (completeJob j s).orders k := by
  obtain ⟨e, older, newer, closes⟩ := jobCloses_completeJob hs job
  by_cases own : k = j.source
  · subst own
    rw [closes.queue, List.mem_append, List.mem_cons] at order
    have others : x ∈ older ∨ x ∈ newer := by
      rcases order with old | rfl | new
      · exact .inl old
      · exact absurd closes.held apart
      · exact .inr new
    rw [closes.orders]
    split
    · exact List.mem_append.2 others
    · exact List.mem_append.2 (others.imp_right (List.mem_cons_of_mem _))
  · rw [closes.otherOrders k own]
    exact order

/-- No order but one that is ANSWERED is new where a job completes. -/
theorem mem_of_mem_orders_completeJob {k : Source} {x : OrderEntry} (after : x ∈ (completeJob j s).orders k) :
    x ∈ s.orders k ∨ x.state = .answered := by
  obtain ⟨e, older, newer, closes⟩ := jobCloses_completeJob hs job
  by_cases own : k = j.source
  · subst own
    rw [closes.orders] at after
    rw [closes.queue]
    split at after
    · exact .inl (List.mem_append.2 ((List.mem_append.1 after).imp_right (List.mem_cons_of_mem _)))
    · rcases List.mem_append.1 after with old | rest
      · exact .inl (List.mem_append_left _ old)
      · rcases List.mem_cons.1 rest with rfl | new
        · exact .inr rfl
        · exact .inl (List.mem_append_right _ (List.mem_cons_of_mem _ new))
  · rw [closes.otherOrders k own] at after
    exact .inl after

/-- The completion of one job does not change whether another's reply is owed. -/
theorem replyOwed_completeJob {k : DrainJob} (other : k.handle.slot ≠ j.handle.slot) :
    replyOwed (completeJob j s) k = replyOwed s k := by
  unfold replyOwed
  rw [Bool.eq_iff_iff, List.any_eq_true, List.any_eq_true]
  constructor
  · rintro ⟨x, after, both⟩
    refine ⟨x, ?_, both⟩
    rcases mem_of_mem_orders_completeJob hs job after with old | answered
    · exact old
    · simp [answered] at both
  · rintro ⟨x, order, both⟩
    refine ⟨x, mem_orders_completeJob hs job order fun taken => ?_, both⟩
    rw [taken, Bool.and_eq_true, beq_iff_eq] at both
    exact other (OrderState.taken.inj both.1).symm

/-- The order of a job is ANSWERED as it completes, if its reply is owed. -/
theorem completeJob_answered (owed : replyOwed s j = true) :
    ∃ e ∈ (completeJob j s).orders j.source, e.state = .answered ∧ e.sequence = j.sequence ∧ e.code = j.code := by
  obtain ⟨e, older, newer, closes⟩ := jobCloses_completeJob hs job
  rw [replyOwed_eq (hs.2.once j.source j.handle.slot)
    (by rw [closes.queue]; exact List.mem_append_right _ List.mem_cons_self) closes.held] at owed
  have loud : e.silent = false := by simpa using owed
  refine ⟨{ e with state := .answered }, ?_, rfl, closes.sequence, closes.code⟩
  rw [closes.orders, loud]
  exact List.mem_append_right _ List.mem_cons_self

theorem DrainsHeld.completeJob : DrainsHeld (completeJob j s) :=
  ⟨hs.1.completeJob j, hs.2.removed hs.1.distinct job (completeJob_drains j s) (completeJob_takenKeys j s)⟩

end job

/-! ### A list of jobs, in its order -/

/-- The replies that the jobs of a list get whose windows are without traffic, in its order (R128, R193). -/
def listedReplies (l : List DrainJob) (s : State) (src : Source) : List ReturnPacket :=
  l.filterMap fun j =>
    if j.source = src ∧ (s.slot j.handle.slot).count = 0 ∧ replyOwed s j = true then some (doneReply j) else none

section listed

variable {l : List DrainJob} {s : State}

/-- The rest of a list, after its first job. -/
theorem completeListed_cons (j : DrainJob) (l : List DrainJob) (s : State) :
    completeListed (j :: l) s = completeListed l (if (s.slot j.handle.slot).count = 0 then completeJob j s else s) := rfl

theorem listed_after {j : DrainJob} (distinct : ((j :: l).map fun k => k.handle.slot).Nodup)
    (listed : ∀ k ∈ j :: l, k ∈ s.eng.drains) : ∀ k ∈ l, k ∈ (completeJob j s).eng.drains ∧ k.handle.slot ≠ j.handle.slot := by
  intro k hk
  rw [List.map_cons, List.nodup_cons] at distinct
  have apart : k.handle.slot ≠ j.handle.slot := fun e => distinct.1 (e ▸ List.mem_map_of_mem hk)
  refine ⟨?_, apart⟩
  rw [completeJob_drains, List.mem_filter, bne_iff_ne]
  exact ⟨listed k (List.mem_cons_of_mem _ hk), apart⟩

/-- Return queues gain the replies of the jobs that complete, in the order of the list, and nothing else (R128). -/
theorem completeListed_returns (hs : DrainsHeld s) (distinct : (l.map fun j => j.handle.slot).Nodup)
    (listed : ∀ j ∈ l, j ∈ s.eng.drains) (src : Source) :
    (completeListed l s).returns src = s.returns src ++ listedReplies l s src := by
  induction l generalizing s with
  | nil => exact (List.append_nil _).symm
  | cons j l ih =>
    have job := listed j List.mem_cons_self
    have after := listed_after distinct listed
    have rest := (List.nodup_cons.1 (List.map_cons ▸ distinct)).2
    rw [completeListed_cons]
    by_cases zero : (s.slot j.handle.slot).count = 0
    · have same : listedReplies l (completeJob j s) src = listedReplies l s src := by
        unfold listedReplies
        refine List.filterMap_congr fun k hk => ?_
        rw [(drainsEnd_completeJob j s).counts, replyOwed_completeJob hs job (after k hk).2]
      rw [if_pos zero, ih (hs.completeJob job) rest fun k hk => (after k hk).1, same, completeJob_returns hs job,
        List.append_assoc]
      congr 1
      unfold listedReplies
      rw [List.filterMap_cons]
      by_cases owed : j.source = src ∧ replyOwed s j = true
      · rw [if_pos owed, if_pos ⟨owed.1, zero, owed.2⟩]
        rfl
      · rw [if_neg owed, if_neg fun both => owed ⟨both.1, both.2.2⟩]
        rfl
    · rw [if_neg zero, ih hs rest fun k hk => listed k (List.mem_cons_of_mem _ hk)]
      congr 1
      unfold listedReplies
      rw [List.filterMap_cons, if_neg fun both => zero both.2.1]

/-- An order that is ANSWERED stays as a list of jobs is gone through. -/
theorem completeListed_answered (hs : DrainsHeld s) (distinct : (l.map fun j => j.handle.slot).Nodup)
    (listed : ∀ j ∈ l, j ∈ s.eng.drains) {src : Source} {e : OrderEntry} (order : e ∈ s.orders src)
    (answered : e.state = .answered) : e ∈ (completeListed l s).orders src := by
  refine (completeListed_keeps (P := fun u => DrainsHeld u ∧ e ∈ u.orders src) (fun j u job _ hu => ?_) l distinct s listed
    ⟨hs, order⟩).2
  exact ⟨hu.1.completeJob job, mem_orders_completeJob hu.1 job hu.2 (by rw [answered]; nofun)⟩

/-- The orders of the jobs that complete are ANSWERED where their replies are owed. -/
theorem completeListed_answers (hs : DrainsHeld s) (distinct : (l.map fun j => j.handle.slot).Nodup)
    (listed : ∀ j ∈ l, j ∈ s.eng.drains) {j : DrainJob} (job : j ∈ l) (zero : (s.slot j.handle.slot).count = 0)
    (owed : replyOwed s j = true) :
    ∃ e ∈ (completeListed l s).orders j.source, e.state = .answered ∧ e.sequence = j.sequence ∧ e.code = j.code := by
  induction l generalizing s with
  | nil => cases job
  | cons k l ih =>
    have front := listed k List.mem_cons_self
    have after := listed_after distinct listed
    have rest := (List.nodup_cons.1 (List.map_cons ▸ distinct)).2
    rw [completeListed_cons]
    rcases List.mem_cons.1 job with rfl | later
    · rw [if_pos zero]
      obtain ⟨e, order, answered, same⟩ := completeJob_answered hs front owed
      exact ⟨e, completeListed_answered (hs.completeJob front) rest (fun x hx => (after x hx).1) order answered, answered, same⟩
    · split
      · refine ih (hs.completeJob front) rest (fun x hx => (after x hx).1) later ?_ ?_
        · rw [(drainsEnd_completeJob k s).counts, zero]
        · rw [replyOwed_completeJob hs front (after j later).2, owed]
      · exact ih hs rest (fun x hx => listed x (List.mem_cons_of_mem _ hx)) later zero owed

/-- A slot stays as it is, unless a job of the list follows its window and that is without traffic. -/
theorem completeListed_slot_kept {i : Fin Config.slots} (busy : ∀ j ∈ l, j.handle.slot = i → (s.slot i).count ≠ 0) :
    (completeListed l s).slot i = s.slot i := by
  induction l generalizing s with
  | nil => rfl
  | cons j l ih =>
    have rest : ∀ k ∈ l, k.handle.slot = i → (s.slot i).count ≠ 0 := fun k hk => busy k (List.mem_cons_of_mem _ hk)
    rw [completeListed_cons]
    split
    · next zero =>
      have apart : i ≠ j.handle.slot := fun e => busy j List.mem_cons_self e.symm (e ▸ zero)
      have same : (completeJob j s).slot i = s.slot i := by rw [completeJob_slot, if_neg apart]
      rw [ih fun k hk e => by rw [same]; exact rest k hk e, same]
    · exact ih rest

/-- The slot of a job that completes is drained (R122 to R124). -/
theorem completeListed_slot_done (distinct : (l.map fun j => j.handle.slot).Nodup) {j : DrainJob} (job : j ∈ l)
    (zero : (s.slot j.handle.slot).count = 0) :
    (completeListed l s).slot j.handle.slot = drainedSlot (s.slot j.handle.slot) := by
  obtain ⟨older, newer, rfl⟩ := List.append_of_mem job
  rw [List.map_append, List.map_cons, List.nodup_append] at distinct
  obtain ⟨-, tail, cross⟩ := distinct
  have before : (completeListed older s).slot j.handle.slot = s.slot j.handle.slot :=
    completeListed_slot_kept fun k hk e => absurd e (cross _ (List.mem_map_of_mem hk) _ List.mem_cons_self)
  have after : ∀ k ∈ newer, k.handle.slot ≠ j.handle.slot := fun k hk e =>
    (List.nodup_cons.1 tail).1 (e ▸ List.mem_map_of_mem hk)
  rw [completeListed_append, completeListed_cons, if_pos (by rw [before]; exact zero),
    completeListed_slot_kept fun k hk e => absurd e (after k hk), completeJob_slot, if_pos rfl, before]

end listed

/-! ### What a drained slot holds -/

/-- The pending change is applied and the window is LIVE (R123). -/
theorem drainedSlot_change {x : Slot} {w : Window} {c : PendingChange} (window : x.window = some w)
    (state : w.state = .drainChange c) : drainedSlot x = { x with window := some { changed c w with state := .live } } := by
  unfold drainedSlot
  rw [window]
  dsimp only
  rw [state]

/-- The slot is FREE and its generation has advanced (R124). -/
theorem drainedSlot_retire {x : Slot} {w : Window} (window : x.window = some w) (state : w.state = .drainRetire) :
    drainedSlot x = { x with generation := x.generation + 1, window := none } := by
  unfold drainedSlot
  rw [window]
  dsimp only
  rw [state]

/-! ### All the drains of an event -/

section drains

variable {s : State} (hs : DrainsHeld s)
include hs

theorem completeDrains_returns (src : Source) :
    (completeDrains s).returns src = s.returns src ++ listedReplies s.eng.drains s src :=
  completeListed_returns hs hs.1.distinct (fun _ hj => hj) src

theorem completeDrains_answers {j : DrainJob} (job : j ∈ s.eng.drains) (zero : (s.slot j.handle.slot).count = 0)
    (owed : replyOwed s j = true) :
    ∃ e ∈ (completeDrains s).orders j.source, e.state = .answered ∧ e.sequence = j.sequence ∧ e.code = j.code :=
  completeListed_answers hs hs.1.distinct (fun _ hj => hj) job zero owed

theorem completeDrains_slot_done {j : DrainJob} (job : j ∈ s.eng.drains) (zero : (s.slot j.handle.slot).count = 0) :
    (completeDrains s).slot j.handle.slot = drainedSlot (s.slot j.handle.slot) :=
  completeListed_slot_done hs.1.distinct job zero

/-- No order stays TAKEN for the slot of a job that has completed. -/
theorem completeDrains_untaken {j : DrainJob} (zero : (s.slot j.handle.slot).count = 0) {src : Source} {e : OrderEntry}
    (order : e ∈ (completeDrains s).orders src) : e.state ≠ .taken j.handle.slot := by
  intro taken
  obtain ⟨k, job, slot, -⟩ := hs.completeDrains.2.holder src e order _ taken
  rw [completeDrains_drains, List.mem_filter, bne_iff_ne] at job
  exact job.2 (slot ▸ zero)

end drains

theorem completeDrains_slot_kept {s : State} {i : Fin Config.slots}
    (busy : ∀ j ∈ s.eng.drains, j.handle.slot = i → (s.slot i).count ≠ 0) : (completeDrains s).slot i = s.slot i :=
  completeListed_slot_kept busy

/-! ### Counts and what names a window -/

/-- A window's count is zero exactly if nothing names it (R21). -/
theorem count_eq_zero_iff {s : State} (hs : CountsMatch s) (i : Fin Config.slots) :
    (s.slot i).count = 0 ↔ ¬Named s (.window ⟨i, (s.slot i).generation⟩) := by
  rw [hs.windows, ← count_routesNamed, Multiset.count_eq_zero, mem_routesNamed]

theorem fallbackCount_eq_zero_iff {s : State} (hs : CountsMatch s) : s.dir.fallbackCount = 0 ↔ ¬Named s .fallback := by
  rw [hs.fallback, ← count_routesNamed, Multiset.count_eq_zero, mem_routesNamed]

theorem CountsMatch.ebbs {s u : State} (h : Ebbs s u) (hs : CountsMatch s) : CountsMatch u :=
  keeps_ebbs (P := CountsMatch) Quiet.countsMatch QueueMove.countsMatch Ebb.countsMatch h hs

theorem DrainsHeld.ebbs {s u : State} (h : Ebbs s u) (hs : DrainsHeld s) : DrainsHeld u :=
  keeps_ebbs (P := DrainsHeld) (fun m hu => hu.same m.directory (takenKeys_congr m.same.orders))
    (fun m hu => hu.same m.directory m.takenKeys)
    (fun m hu => hu.same m.stand.directory (takenKeys_congr (by rw [m.eng]))) h hs

/-! ### The REPLYs of waits that end together -/

/-- The REPLY that a host is owed for one entry when the waits that a test picks end. -/
def replyFor (h : HostId) (picks : Waiting → Bool) (st : Status) (i : Fin Config.replyEntries) (e : Entry) : Option ReturnPacket :=
  match e.state with
  | .waiting w => if picks w && !w.orphan && w.host == h then some (.reply i w.tag st []) else none
  | _ => none

theorem endWait_returns (h : HostId) (picks : Waiting → Bool) (st : Status) (s : State) (i : Fin Config.replyEntries) :
    (endWait picks st s i).returns (.host h) = s.returns (.host h) ++ (replyFor h picks st i (s.entry i)).toList := by
  unfold endWait replyFor
  cases state : (s.entry i).state with
  | free => exact (List.append_nil _).symm
  | answered a => exact (List.append_nil _).symm
  | waiting w =>
    dsimp only
    cases picked : picks w with
    | false => simp
    | true =>
      rw [if_pos rfl, leaveWaiting_returns state]
      by_cases owed : w.orphan = false ∧ w.host = h
      · obtain ⟨loud, rfl⟩ := owed
        simp [loud]
      · have none : ¬(w.orphan = false ∧ Source.host h = .host w.host) := fun both =>
          owed ⟨both.1, (Source.host.inj both.2).symm⟩
        have quiet : (true && !w.orphan && w.host == h) = false := by
          rw [Bool.eq_false_iff]
          intro both
          simp only [Bool.true_and, Bool.and_eq_true, Bool.not_eq_true', beq_iff_eq] at both
          exact owed both
        rw [if_neg none, quiet]
        exact (List.append_nil _).symm

theorem foldl_endWait_returns (h : HostId) (picks : Waiting → Bool) (st : Status) (l : List (Fin Config.replyEntries))
    (distinct : l.Nodup) (s : State) :
    (l.foldl (endWait picks st) s).returns (.host h) =
      s.returns (.host h) ++ l.filterMap fun i => replyFor h picks st i (s.entry i) := by
  induction l generalizing s with
  | nil => exact (List.append_nil _).symm
  | cons i l ih =>
    obtain ⟨new, distinct⟩ := List.nodup_cons.1 distinct
    have same : l.filterMap (fun k => replyFor h picks st k ((endWait picks st s i).entry k)) =
        l.filterMap fun k => replyFor h picks st k (s.entry k) :=
      List.filterMap_congr fun k hk => by rw [endWait_entry, if_neg (ne_of_mem_of_not_mem hk new)]
    rw [List.foldl_cons, ih distinct, same, endWait_returns, List.filterMap_cons, List.append_assoc]
    cases replyFor h picks st i (s.entry i) <;> rfl

/-- The REPLYs stand in increasing index order (R63, R64). -/
theorem leaveWaitingAll_returns (h : HostId) (picks : Waiting → Bool) (st : Status) (s : State) :
    (leaveWaitingAll picks st s).returns (.host h) = s.returns (.host h) ++ repliesFor s h picks st := by
  rw [leaveWaitingAll_eq, foldl_endWait_returns h picks st _ (List.nodup_finRange _)]
  rfl

theorem losePosts_returns (picks : EgressPacket → Bool) (g : TargetId) (s : State) (k : Source) :
    (losePosts picks g s).returns k = s.returns k := by
  unfold losePosts
  split
  · exact removePosts_returns picks g s k
  · rfl

end Sys2Proof.Machine
end

section
/-! PROOFS. Waits that end together, and the session end of a target port. -/

namespace Sys2Proof.Machine

/-! ### Waits that end together: what is left of entries and queues -/

/-- An entry's wait is one that a test picks, for a target. -/
def endsAt (picks : Waiting → Bool) (k : TargetId) (e : Entry) : Bool :=
  match e.state with
  | .waiting w => picks w && w.target == k
  | _ => false

theorem endWait_egress (picks : Waiting → Bool) (st : Status) (s : State) (i : Fin Config.replyEntries) (k : TargetId) :
    (endWait picks st s i).egress k =
      (s.egress k).filter fun pkt => !(isFetchOf i pkt && endsAt picks k (s.entry i)) := by
  have all : ∀ q : List EgressPacket, q = q.filter fun pkt => !(isFetchOf i pkt && false) := fun q =>
    (List.filter_eq_self.2 fun pkt _ => by rw [Bool.and_false]; rfl).symm
  unfold endWait endsAt
  cases state : (s.entry i).state with
  | free => exact all _
  | answered a => exact all _
  | waiting w =>
    dsimp only
    cases picked : picks w with
    | false => exact all _
    | true =>
      rw [if_pos rfl, leaveWaiting_egress state]
      by_cases own : k = w.target
      · simp [own]
      · rw [if_neg own, show (true && w.target == k) = false by simp [Ne.symm own]]
        exact all _

theorem foldl_endWait_egress (picks : Waiting → Bool) (st : Status) (k : TargetId) (l : List (Fin Config.replyEntries))
    (distinct : l.Nodup) (s : State) :
    (l.foldl (endWait picks st) s).egress k =
      (s.egress k).filter fun pkt => !l.any fun i => isFetchOf i pkt && endsAt picks k (s.entry i) := by
  induction l generalizing s with
  | nil => exact (List.filter_eq_self.2 fun _ _ => rfl).symm
  | cons i l ih =>
    obtain ⟨new, distinct⟩ := List.nodup_cons.1 distinct
    rw [List.foldl_cons, ih distinct, endWait_egress, List.filter_filter]
    refine List.filter_congr fun pkt _ => ?_
    have same : (l.any fun j => isFetchOf j pkt && endsAt picks k ((endWait picks st s i).entry j)) =
        l.any fun j => isFetchOf j pkt && endsAt picks k (s.entry j) := by
      rw [Bool.eq_iff_iff, List.any_eq_true, List.any_eq_true]
      exact exists_congr fun j => and_congr_right fun hj => by rw [endWait_entry, if_neg (ne_of_mem_of_not_mem hj new)]
    rw [same, List.any_cons, Bool.not_or, Bool.and_comm]

/-- An egress queue loses the FETCHes of the entries whose waits for it end (R61). -/
theorem leaveWaitingAll_egress (picks : Waiting → Bool) (st : Status) (s : State) (k : TargetId) :
    (leaveWaitingAll picks st s).egress k = (s.egress k).filter fun pkt =>
      !(List.finRange Config.replyEntries).any fun i => isFetchOf i pkt && endsAt picks k (s.entry i) := by
  rw [leaveWaitingAll_eq, foldl_endWait_egress picks st k _ (List.nodup_finRange _)]

/-- A queue that no wait picked is for stays as it is. -/
theorem leaveWaitingAll_egress_other (picks : Waiting → Bool) (st : Status) (s : State) {k : TargetId}
    (other : ∀ w, picks w = true → w.target ≠ k) : (leaveWaitingAll picks st s).egress k = s.egress k := by
  rw [leaveWaitingAll_egress, List.filter_eq_self]
  intro pkt _
  rw [Bool.not_eq_true', List.any_eq_false]
  intro i _ both
  rw [Bool.and_eq_true] at both
  obtain ⟨-, ends⟩ := both
  unfold endsAt at ends
  split at ends
  · next w _ =>
    rw [Bool.and_eq_true, beq_iff_eq] at ends
    exact other w ends.1 ends.2
  · cases ends

/-- An entry that is WAITING after the waits picked have ended was WAITING and is not picked. -/
theorem endedEntry_waiting_iff {picks : Waiting → Bool} {st : Status} {e : Entry} {w : Waiting} :
    (endedEntry picks st e).state = .waiting w ↔ e.state = .waiting w ∧ picks w = false := by
  refine ⟨endedEntry_waiting, fun ⟨waiting, kept⟩ => ?_⟩
  unfold endedEntry
  rw [waiting]
  dsimp only
  rw [kept, if_neg Bool.false_ne_true, waiting]

theorem endedEntry_picked {picks : Waiting → Bool} {st : Status} {e : Entry} {w : Waiting} (waiting : e.state = .waiting w)
    (picked : picks w = true) :
    endedEntry picks st e = if w.orphan then ⟨e.epoch + 1, .free⟩
      else ⟨e.epoch, .answered ⟨w.host, w.tag, w.session, some (w.route, w.target), st, []⟩⟩ := by
  unfold endedEntry
  rw [waiting]
  dsimp only
  rw [if_pos picked]

theorem endedEntry_kept {picks : Waiting → Bool} {st : Status} {e : Entry} {w : Waiting} (waiting : e.state = .waiting w)
    (kept : picks w = false) : endedEntry picks st e = e := by
  unfold endedEntry
  rw [waiting]
  dsimp only
  rw [kept, if_neg Bool.false_ne_true]

theorem endedEntry_answered {picks : Waiting → Bool} {st : Status} {e : Entry} {a : Answered} (answered : e.state = .answered a) :
    endedEntry picks st e = e := by
  unfold endedEntry
  rw [answered]

/-- The waits that a test picks have ended, and what they freed has been handed out. -/
theorem allLeftWaiting_of {picks : Waiting → Bool} {st : Status} {s u v t : State}
    (entries : ∀ i, u.entry i = endedEntry picks st (s.entry i))
    (replies : ∀ h, s.returns (.host h) ++ repliesFor s h picks st <+: u.returns (.host h)) (moves : TrafficMoves u v)
    (idle : NoHostWaits s → v = u) (entry : ∀ i, t.entry i = v.entry i) (returns : ∀ src, v.returns src <+: t.returns src) :
    AllLeftWaiting picks st s t where
  answered i w waiting picked loud := by
    have ended := (entries i).trans (endedEntry_picked waiting picked)
    rw [loud, if_neg Bool.false_ne_true] at ended
    rw [entry, moves.entries i (by rw [ended]; nofun), ended]
  replies h := ((replies h).trans (moves.returns _)).trans (returns _)
  freed i w waiting picked orphan := by
    have ended := (entries i).trans (endedEntry_picked waiting picked)
    rw [orphan, if_pos rfl] at ended
    refine ⟨by rw [entry, moves.epochs, ended], fun none => ?_⟩
    rw [entry, idle none, ended]
  others i w waiting kept := by
    have ended := (entries i).trans (endedEntry_kept waiting kept)
    rw [entry, moves.entries i (by rw [ended, waiting]; nofun), ended]
  kept i a answered := by
    have ended := (entries i).trans (endedEntry_answered answered)
    rw [entry, moves.entries i (by rw [ended, answered]; nofun), ended]

/-! ### The state that a target's session end leaves before its drains complete -/

/-- An egress queue that is cleared ends traffic alone. -/
theorem ends_clearEgress (g : TargetId) (s : State) : TrafficEnds s (s.setEgress g []) := by
  refine { TrafficEnds.refl s with egress := fun k => ?_, ports := rfl }
  rw [State.setEgress_egress]
  split
  · exact List.nil_sublist _
  · exact List.Sublist.refl _

theorem ends_targetEmptied (g : TargetId) (s : State) : TrafficEnds s (targetEmptied g s) :=
  ((ends_losePosts isPost g s).trans (ends_clearEgress g _)).trans (ends_leaveWaitingAll ..)

theorem losePosts_entry (picks : EgressPacket → Bool) (g : TargetId) (s : State) (i : Fin Config.replyEntries) :
    (losePosts picks g s).entry i = s.entry i := by
  unfold losePosts
  split
  · exact removePosts_entry picks g s i
  · rfl

theorem losePosts_shows {picks : EgressPacket → Bool} {g : TargetId} {s : State} (lost : (s.egress g).any picks = true) :
    FlagShows .postsLost (.target g) (losePosts picks g s) := by
  unfold losePosts
  rw [if_pos lost]
  exact (flagRaised_raise .postsLost (portMask (.target g)) (removePosts picks g s) _ rfl).shows

theorem repliesFor_congr {s t : State} (entries : ∀ i, t.entry i = s.entry i) (h : HostId) (picks : Waiting → Bool) (st : Status) :
    repliesFor t h picks st = repliesFor s h picks st := by
  have same : ∀ u, repliesFor u h picks st =
      (List.finRange Config.replyEntries).filterMap fun i => replyFor h picks st i (u.entry i) := fun _ => rfl
  rw [same, same]
  exact List.filterMap_congr fun i _ => by rw [entries]

/-- A target port's session has ended; no drain has completed and nothing has been handed out (R157). -/
def targetEnded (g : TargetId) (l : LinkState) (n : Nat) (s : State) : State := endTargetSession g n (s.setLink (.target g) l)

section targetEnded

variable (g : TargetId) (l : LinkState) (n : Nat) (s : State)

theorem targetEmptied_entry (i : Fin Config.replyEntries) :
    (targetEmptied g s).entry i = endedEntry (fun w => w.target == g) .portDown (s.entry i) := by
  unfold targetEmptied
  rw [leaveWaitingAll_entry, State.setEgress_entry, losePosts_entry]

theorem targetEmptied_returns (h : HostId) :
    (targetEmptied g s).returns (.host h) = s.returns (.host h) ++ repliesFor s h (fun w => w.target == g) .portDown := by
  unfold targetEmptied
  rw [leaveWaitingAll_returns, repliesFor_congr (s := s) (t := (losePosts isPost g s).setEgress g []) (losePosts_entry isPost g s)]
  exact congrArg (· ++ _) (losePosts_returns ..)

theorem targetEmptied_shows (lost : (s.egress g).any isPost = true) :
    FlagShows .postsLost (.target g) (targetEmptied g s) :=
  (ends_leaveWaitingAll ..).shows _ _ ((ends_clearEgress g _).shows _ _ (losePosts_shows lost))

theorem targetEmptied_otherEgress {k : TargetId} (other : k ≠ g) : (targetEmptied g s).egress k = s.egress k := by
  unfold targetEmptied
  rw [leaveWaitingAll_egress_other, State.setEgress_egress, if_neg other, losePosts_egress, if_neg other]
  intro w picked same
  exact other (same.symm.trans (by simpa using picked))

/-- Where traffic has ended, a link and a held count may be written behind it. -/
theorem linkHeld_ports {s u : State} (ports : u.ports = { s.ports with egress := u.ports.egress, returns := u.ports.returns })
    (p : Port) (l : LinkState) (n : Nat) :
    ((u.setLink p l).setHeld p n).ports = { s.ports with
      link := s.ports.link.set p l, held := s.ports.held.set p n, egress := u.ports.egress, returns := u.ports.returns } := by
  change { u.ports with link := u.ports.link.set p l, held := u.ports.held.set p n } = _
  conv_lhs => rw [ports]

/-- What the end of a target's session leaves, field by field. -/
structure TargetEnded (u : State) : Prop where
  ctl : u.ctl = s.ctl
  fwd : u.fwd = s.fwd
  eng : u.eng = s.eng
  sent : u.sent = s.sent
  windows : WindowsKept s u
  fallback : u.dir.fallback = s.dir.fallback
  position : u.table.position = s.table.position
  entry : ∀ i, u.entry i = endedEntry (fun w => w.target == g) .portDown (s.entry i)
  egress : ∀ k, u.egress k = if k = g then [] else s.egress k
  replies : ∀ h, u.returns (.host h) = s.returns (.host h) ++ repliesFor s h (fun w => w.target == g) .portDown
  mgmt : u.returns .mgmt = s.returns .mgmt
  ports : u.ports = { s.ports with
    link := s.ports.link.set (.target g) l, held := s.ports.held.set (.target g) n
    egress := u.ports.egress, returns := u.ports.returns }
  down : FlagShows .targetDown (.target g) u
  lost : (s.egress g).any isPost = true → FlagShows .postsLost (.target g) u

theorem targetEnded_spec : TargetEnded g l n s (targetEnded g l n s) := by
  have ends := ends_targetEmptied g s
  have entry := targetEmptied_entry g s
  have replies := targetEmptied_returns g s
  have lost := targetEmptied_shows g s
  have egress : ∀ k, (targetEmptied g s).egress k = if k = g then [] else s.egress k := fun k => by
    split
    · next own => rw [own, targetEmptied_egress]
    · next other => exact targetEmptied_otherEgress g s other
  unfold targetEnded
  rw [endTargetSession_setLink]
  generalize targetEmptied g s = u at ends entry replies lost egress
  exact {
    ctl := ends.ctl, fwd := ends.fwd, eng := ends.eng, sent := ends.sent, windows := ends.windows, fallback := ends.fallback
    position := ends.position, entry := entry, egress := egress, replies := replies, mgmt := ends.mgmt
    ports := linkHeld_ports ends.ports (.target g) l n
    down := (flagRaised_raise .targetDown (portMask (.target g)) _ _ rfl).shows
    lost := fun some => shows_raise .targetDown (portMask (.target g)) _ (lost some) }

end targetEnded

/-! ### What completions keep -/

theorem DrainsEnd.sent {s t : State} (h : DrainsEnd s t) : t.sent = s.sent := by rw [h.rest]

theorem DrainsEnd.eng {s t : State} (h : DrainsEnd s t) :
    t.eng = { s.eng with orders := t.eng.orders, drains := t.eng.drains } := by rw [h.rest]

/-! ### What names a window after a target's session end -/

theorem trafficElsewhere_iff (s : State) (g : TargetId) (h : Handle) :
    trafficElsewhere s g h = true ↔
      (∃ i w, (s.entry i).state = .waiting w ∧ w.route = .window h ∧ w.target ≠ g) ∨
        ∃ k, k ≠ g ∧ ∃ pkt ∈ s.egress k, namedRoute pkt = some (.window h) := by
  unfold trafficElsewhere
  rw [Bool.or_eq_true, List.any_eq_true, List.any_eq_true]
  refine or_congr ⟨?_, ?_⟩ ⟨?_, ?_⟩
  · rintro ⟨i, -, names⟩
    split at names
    · next w waiting =>
      rw [Bool.and_eq_true, beq_iff_eq, bne_iff_ne] at names
      exact ⟨i, w, waiting, names⟩
    · cases names
  · rintro ⟨i, w, waiting, route, other⟩
    exact ⟨i, List.mem_finRange i, by rw [waiting]; simp [route, other]⟩
  · rintro ⟨k, -, both⟩
    rw [Bool.and_eq_true, bne_iff_ne, List.any_eq_true] at both
    obtain ⟨other, pkt, queued, names⟩ := both
    exact ⟨k, other, pkt, queued, by simpa using names⟩
  · rintro ⟨k, other, pkt, queued, names⟩
    refine ⟨k, by cases k <;> decide, ?_⟩
    rw [Bool.and_eq_true, bne_iff_ne, List.any_eq_true]
    exact ⟨other, pkt, queued, by simp [names]⟩

section targetCounts

variable {g : TargetId} {l : LinkState} {n : Nat} {s u : State} (ended : TargetEnded g l n s u)
include ended

/-- What still names a window is what lies elsewhere (R157). -/
theorem TargetEnded.named_iff (h : Handle) : Named u (.window h) ↔ trafficElsewhere s g h = true := by
  rw [trafficElsewhere_iff]
  refine or_congr ⟨?_, ?_⟩ ⟨?_, ?_⟩
  · rintro ⟨i, w, waiting, route⟩
    rw [ended.entry, endedEntry_waiting_iff] at waiting
    exact ⟨i, w, waiting.1, route, by simpa using waiting.2⟩
  · rintro ⟨i, w, waiting, route, other⟩
    refine ⟨i, w, ?_, route⟩
    rw [ended.entry, endedEntry_waiting_iff]
    exact ⟨waiting, by simpa using other⟩
  · rintro ⟨k, pkt, queued, names⟩
    rw [ended.egress] at queued
    split at queued
    · cases queued
    · next other => exact ⟨k, other, pkt, queued, names⟩
  · rintro ⟨k, other, pkt, queued, names⟩
    exact ⟨k, pkt, by rw [ended.egress, if_neg other]; exact queued, names⟩

/-- The window of a job is without traffic exactly if none lies elsewhere. -/
theorem TargetEnded.count_eq_zero (counts : CountsMatch u) (follows : DrainsFollowWindows s) {j : DrainJob}
    (job : j ∈ s.eng.drains) : (u.slot j.handle.slot).count = 0 ↔ trafficElsewhere s g j.handle = false := by
  obtain ⟨w, -, generation, -⟩ := follows.follows j job
  have handle : (⟨j.handle.slot, (u.slot j.handle.slot).generation⟩ : Handle) = j.handle := by
    rw [(ended.windows _).2, generation]
  rw [count_eq_zero_iff counts, handle, ended.named_iff, Bool.not_eq_true]

end targetCounts

/-- The replies of a list of jobs, when those complete that a test picks. -/
theorem listedReplies_eq {s u : State} {picks : DrainJob → Bool} (eng : u.eng = s.eng)
    (done : ∀ j ∈ s.eng.drains, (u.slot j.handle.slot).count = 0 ↔ picks j = true) (src : Source) :
    listedReplies u.eng.drains u src = doneReplies s src picks := by
  have owed : ∀ j, replyOwed u j = replyOwed s j := fun j => by
    unfold replyOwed State.orders
    rw [eng]
  unfold listedReplies doneReplies
  rw [eng]
  refine List.filterMap_congr fun j job => ?_
  rw [owed]
  simp only [done j job]
  rfl

/-- Settles O29: the drains that complete are those with nothing in flight toward another target. -/
theorem targetSessionEnds : Obligations.TargetSessionEnds := by
  unfold Obligations.TargetSessionEnds
  intro s g c l n running ends
  have ended := targetEnded_spec g l n s
  have ebbs : Ebbs s (targetEnded g l n s) := ebbs_of_endTargetSession n running ends.notUp
  have result : exec c s = .next (notify s none (settle s (targetEnded g l n s))) := by
    rw [exec_endsSession running ends]
    unfold endSession targetEnded
    rfl
  generalize targetEnded g l n s = u at ended ebbs result
  have drained := drainsEnd_completeDrains u
  have moves : TrafficMoves (completeDrains u) (settle s u) := moves_offerFreed s _
  have kept := settle_keeps s u
  have returns : ∀ src, (completeDrains u).returns src <+: (notify s none (settle s u)).returns src := fun src =>
    (moves.returns src).trans (notify_returns ..)
  have waits : NoHostWaits s → NoHostWaits u := fun none h => by unfold State.mark; rw [ended.fwd]; exact none h
  have idle : NoHostWaits s → settle s u = completeDrains u := fun none => settle_noHostWaits (waits none)
  have entry : ∀ i, (completeDrains u).entry i = endedEntry (fun w => w.target == g) .portDown (s.entry i) := fun i =>
    (drained.entry i).trans (ended.entry i)
  have link : u.ports.link = s.ports.link.set (.target g) l := by rw [ended.ports]
  refine ⟨_, result, ?link, ?held, ?egress, ?entries, ?mgmt, ?down, ?lost, ?ctl, ?session, ?barredHost, ?barredTarget, ?rights,
    ?allotment, ?frozen, ?fallback, ?sent, ?noDrains, ?drains, ?handOut, ?idle⟩
  case link => rw [notify_ports]; exact kept.1.trans link
  case held => rw [notify_ports]; exact kept.2.1.trans (by rw [ended.ports])
  case egress =>
    have closed : targetOpen g (completeDrains u) = false := by
      rw [targetOpen_eq_false_iff]
      refine .inl ?_
      unfold State.link
      rw [drained.link, link]
      exact fun up => ends.notUp ((PerPort.get_set_self _ _ _).symm.trans up)
    rw [notify_egress, moves.closed g closed, drained.egress, ended.egress, if_pos rfl]
  case entries =>
    exact allLeftWaiting_of entry (fun h => (ended.replies h) ▸ drained.returns _) moves idle (fun i => notify_entry ..)
      fun src => notify_returns ..
  case mgmt => exact ended.mgmt ▸ (drained.returns .mgmt).trans (returns .mgmt)
  case down => exact shows_settle ended.down s s none
  case lost => exact fun lost => shows_settle (ended.lost lost) s s none
  case ctl => rw [notify_ctl]; exact kept.2.2.trans ended.ctl
  case session => rw [notify_ports]; exact moves.session.trans (by rw [drained.ports, ended.ports])
  case barredHost => rw [notify_ports]; exact moves.barredHost.trans (by rw [drained.ports, ended.ports])
  case barredTarget => rw [notify_ports]; exact moves.barredTarget.trans (by rw [drained.ports, ended.ports])
  case rights => rw [notify_eng, moves.eng, drained.eng, ended.eng]
  case allotment => rw [notify_eng, moves.eng, drained.eng, ended.eng]
  case frozen => rw [notify_eng, moves.eng, drained.eng, ended.eng]
  case fallback => rw [notify_dir, moves.fallback, drained.rest]; exact ended.fallback
  case sent =>
    rw [notify_sent, ← ended.sent, ← drained.sent]
    exact moves.sent
  case noDrains =>
    intro none
    have still : completeDrains u = u := completeDrains_idle u (by unfold NoDrains; rw [ended.eng]; exact none)
    rw [still] at moves
    refine ⟨fun i => ?_, ?_⟩
    · rw [notify_slot]
      exact ⟨(moves.windows i).1.trans (ended.windows i).1, (moves.windows i).2.trans (ended.windows i).2⟩
    · rw [notify_eng]
      exact moves.eng.trans ended.eng
  case drains =>
    intro follows taken counts
    have held : DrainsHeld u := DrainsHeld.ebbs ebbs ⟨follows, taken⟩
    have zero : ∀ j ∈ s.eng.drains, (u.slot j.handle.slot).count = 0 ↔ trafficElsewhere s g j.handle = false := fun j job =>
      ended.count_eq_zero (counts.ebbs ebbs) follows job
    have replies : ∀ src, (completeDrains u).returns src =
        u.returns src ++ doneReplies s src fun j => !trafficElsewhere s g j.handle := fun src => by
      rw [completeDrains_returns held, listedReplies_eq (picks := fun j => !trafficElsewhere s g j.handle) ended.eng]
      exact fun j job => (zero j job).trans (by rw [Bool.not_eq_true'])
    have done : ∀ j ∈ s.eng.drains, trafficElsewhere s g j.handle = false →
        (completeDrains u).slot j.handle.slot = drainedSlot (u.slot j.handle.slot) := fun j job gone =>
      completeDrains_slot_done held (ended.eng ▸ job) ((zero j job).2 gone)
    have orders : ∀ src, (notify s none (settle s u)).orders src = (completeDrains u).orders src := fun src => by
      rw [notify_orders]
      unfold State.orders
      rw [moves.eng]
    refine ⟨?_, fun j w job gone window => ⟨fun c change => ?_, fun retire => ?_, fun owed => ?_, fun e order => ?_⟩,
      fun i busy => ?_, fun h => ?_, ?_⟩
    · rw [notify_eng, moves.eng, completeDrains_drains, ended.eng]
      refine List.filter_congr fun j job => ?_
      rw [Bool.eq_iff_iff, bne_iff_ne, Ne, zero j job, Bool.not_eq_false]
    · rw [notify_slot, (moves.windows _).1, (moves.windows _).2, done j job gone,
        drainedSlot_change ((ended.windows _).1.trans window) change]
      exact ⟨rfl, (ended.windows _).2⟩
    · rw [notify_slot, (moves.windows _).1, (moves.windows _).2, done j job gone,
        drainedSlot_retire ((ended.windows _).1.trans window) retire]
      exact ⟨rfl, congrArg (· + 1) (ended.windows _).2⟩
    · rw [orders]
      refine completeDrains_answers held (ended.eng ▸ job) ((zero j job).2 gone) ?_
      unfold replyOwed State.orders
      rw [ended.eng]
      exact owed
    · rw [orders] at order
      exact completeDrains_untaken held ((zero j job).2 gone) order
    · have still : (completeDrains u).slot i = u.slot i := completeDrains_slot_kept fun j job slot none => by
        rw [ended.eng] at job
        have gone := (zero j job).1 (slot.symm ▸ none)
        rw [busy j job slot] at gone
        cases gone
      rw [notify_slot, (moves.windows _).1, (moves.windows _).2, still]
      exact ended.windows i
    · rw [← ended.replies, ← replies]
      exact returns _
    · rw [← ended.mgmt, ← replies]
      exact returns _
  case handOut =>
    refine ⟨completeDrains u, drained.fwd.trans ended.fwd, ?_, entry, ?_, ?_, handOut_notify s none _⟩
    · rw [drained.table]; exact ended.position
    · refine PerTarget.ext_get fun k => ?_
      rw [PerTarget.get_set]
      exact (drained.egress k).trans (ended.egress k)
    · rw [drained.ports, ended.ports]
  case idle =>
    intro none
    rw [idle none]
    refine ⟨?_, ?_, ?_⟩
    · rw [notify_sent, drained.sent, ended.sent]
    · rw [notify_fwd, drained.fwd, ended.fwd]
    · rw [notify_ports, drained.ports, ended.ports]

end Sys2Proof.Machine
end

section
/-! PROOFS. The drain timer of a FORCE job. -/

namespace Sys2Proof.Machine

/-! ### Flags that an event's offers never set -/

theorem mask_other {f g : Flag} (apart : f ≠ g) : f.mask.getLsbD g.bit.val = false := by
  revert apart
  cases f <;> cases g <;> decide

/-- A flag's pending mark is as it was. -/
def FlagStays (f : Flag) (s t : State) : Prop := t.events.pending.getLsbD f.bit.val = s.events.pending.getLsbD f.bit.val

theorem FlagStays.of_events {f : Flag} {s t : State} (events : t.events = s.events) : FlagStays f s t := by
  unfold FlagStays
  rw [events]

theorem FlagStays.trans {f : Flag} {s t u : State} (a : FlagStays f s t) (b : FlagStays f t u) : FlagStays f s u :=
  Eq.trans b a

theorem FlagStays.raised {f g : Flag} {ps : BitVec 9} {s t : State} (apart : g ≠ f) (events : t.events = raiseFlag g ps s.events) :
    FlagStays f s t := by
  unfold FlagStays
  rw [events, raiseFlag_pending, BitVec.getLsbD_or, mask_other apart, Bool.or_false]

/-- A flag that attempts do not set. -/
structure NotOfAttempts (f : Flag) : Prop where
  protocol : Flag.protocol ≠ f
  postRefused : Flag.postRefused ≠ f
  mirrorSkipped : Flag.mirrorSkipped ≠ f

section attempts

variable {f : Flag} (apart : NotOfAttempts f)
include apart

theorem forwardPost_flagStays (h : HostId) (d : List Byte) (hop : Hop) (s : State) : FlagStays f s (forwardPost h d hop s) := by
  have placed : ∀ g u, (placePost h d hop g u).events = u.events := fun g u => raiseCount_events ..
  unfold forwardPost
  dsimp only
  split
  · exact .of_events ((placed _ _).trans (placed _ _))
  · split
    · exact (FlagStays.of_events (placed hop.target s)).trans (.raised apart.mirrorSkipped rfl)
    · exact .of_events (placed _ _)

theorem attempt_flagStays (h : HostId) (o : Option (Fin Config.replyEntries)) (s : State) : FlagStays f s (attempt h o s) := by
  have carried : ∀ plan u, FlagStays f u (carryOut h o plan u) := by
    intro plan u
    unfold carryOut
    split
    · exact .raised apart.protocol rfl
    · exact .raised apart.postRefused rfl
    · split
      · exact .of_events rfl
      · exact .of_events rfl
    · split
      · exact .of_events (raiseCount_events ..)
      · exact .of_events rfl
    · exact forwardPost_flagStays apart h _ _ u
  unfold attempt
  dsimp only
  split
  · exact .of_events rfl
  · split
    · exact carried _ _
    · exact .of_events rfl

/-- What an event hands out sets no flag but those of forward attempts. -/
theorem offerFreed_flagStays (before s : State) : FlagStays f s (offerFreed before s) :=
  rel_offerFreed (R := FlagStays f) (fun _ => .of_events rfl) (fun _ _ _ => .trans) (fun h o s => attempt_flagStays apart h o s)
    (fun _ _ => .of_events rfl) (fun _ _ _ => .of_events rfl) before s

end attempts

/-! ### Queues that a fold goes through -/

section queues

variable {f : State → TargetId → State} {change : List EgressPacket → List EgressPacket}
  (step : ∀ s g k, (f s g).egress k = if k = g then change (s.egress g) else s.egress k)
include step

theorem foldl_egress (l : List TargetId) (distinct : l.Nodup) (s : State) (k : TargetId) :
    (l.foldl f s).egress k = if k ∈ l then change (s.egress k) else s.egress k := by
  induction l generalizing s with
  | nil => rfl
  | cons g l ih =>
    obtain ⟨new, distinct⟩ := List.nodup_cons.1 distinct
    rw [List.foldl_cons, ih distinct, step]
    by_cases hk : k = g
    · subst hk
      simp [new]
    · simp [hk]

/-- Each queue that holds a packet picked has its flag set as the fold comes to it. -/
theorem foldl_shows {picks : EgressPacket → Bool} (keeps : ∀ s g x p, FlagShows x p s → FlagShows x p (f s g))
    (sets : ∀ s g, (s.egress g).any picks = true → FlagShows .postsLost (.target g) (f s g)) (l : List TargetId)
    (distinct : l.Nodup) {g : TargetId} (listed : g ∈ l) (s : State) (lost : (s.egress g).any picks = true) :
    FlagShows .postsLost (.target g) (l.foldl f s) := by
  induction l generalizing s with
  | nil => cases listed
  | cons k l ih =>
    obtain ⟨new, distinct⟩ := List.nodup_cons.1 distinct
    rw [List.foldl_cons]
    rcases List.mem_cons.1 listed with rfl | later
    · exact foldl_rel (R := fun u v : State => FlagShows .postsLost (.target g) u → FlagShows .postsLost (.target g) v)
        (fun _ h => h) (fun _ _ _ a b h => b (a h)) _ (fun u x => keeps u x _ _) l _ (sets s g lost)
    · exact ih distinct later _ (by rw [step, if_neg (ne_of_mem_of_not_mem later new)]; exact lost)

end queues

theorem mem_targets (g : TargetId) : g ∈ TargetId.all := by cases g <;> decide

theorem nodup_targets : TargetId.all.Nodup := by decide

/-! ### Forced removal (R126) -/

/-- The waits that a forced removal ends. -/
def ofWindow (h : Handle) (w : Waiting) : Bool := w.route == .window h

/-- The losses of a forced removal, after the waits have ended. -/
def forcedLosses (h : Handle) (s : State) : State := TargetId.all.foldl (fun s t => losePosts (namesWindow h) t s) s

theorem forceRemoval_eq (h : Handle) (s : State) :
    forceRemoval h s = forcedLosses h (leaveWaitingAll (ofWindow h) .aborted s) := rfl

theorem ends_forcedLosses (h : Handle) (s : State) : TrafficEnds s (forcedLosses h s) :=
  foldl_rel (R := TrafficEnds) TrafficEnds.refl (fun _ _ _ => TrafficEnds.trans) _ (fun b g => ends_losePosts _ g b) _ _

theorem forcedLosses_entry (h : Handle) (s : State) (i : Fin Config.replyEntries) : (forcedLosses h s).entry i = s.entry i :=
  foldl_rel (R := fun u v : State => v.entry i = u.entry i) (fun _ => rfl) (fun _ _ _ a b => b.trans a) _
    (fun b g => losePosts_entry _ g b i) _ _

theorem forcedLosses_returns (h : Handle) (s : State) (k : Source) : (forcedLosses h s).returns k = s.returns k :=
  foldl_rel (R := fun u v : State => v.returns k = u.returns k) (fun _ => rfl) (fun _ _ _ a b => b.trans a) _
    (fun b g => losePosts_returns _ g b k) _ _

theorem forcedLosses_egress (h : Handle) (s : State) (k : TargetId) :
    (forcedLosses h s).egress k = (s.egress k).filter fun pkt => !namesWindow h pkt :=
  (foldl_egress (change := List.filter fun pkt => !namesWindow h pkt) (fun s g k => losePosts_egress (namesWindow h) g k s)
    _ nodup_targets s k).trans (if_pos (mem_targets k))

theorem losePosts_flagStays {f : Flag} (apart : Flag.postsLost ≠ f) (picks : EgressPacket → Bool) (g : TargetId) (s : State) :
    FlagStays f s (losePosts picks g s) := by
  unfold losePosts
  split
  · exact (FlagStays.of_events (removePosts_events picks g s)).trans (.raised apart rfl)
  · exact .of_events rfl

theorem leaveWaitingAll_events (picks : Waiting → Bool) (st : Status) (s : State) :
    (leaveWaitingAll picks st s).events = s.events := by
  rw [leaveWaitingAll_eq]
  refine foldl_rel (R := fun u v : State => v.events = u.events) (fun _ => rfl) (fun _ _ _ a b => b.trans a) _ (fun u i => ?_) _ _
  unfold endWait
  split
  · split
    · exact leaveWaiting_events ..
    · rfl
  · rfl

theorem namesWindow_iff (h : Handle) (pkt : EgressPacket) : namesWindow h pkt = true ↔ namedRoute pkt = some (.window h) := by
  cases pkt with
  | fetch i ep a n => exact ⟨nofun, nofun⟩
  | post r o a d =>
    cases r with
    | fallback => exact ⟨nofun, nofun⟩
    | window k => simp [namesWindow, namedRoute]

/-- The packets of an egress queue that a forced removal leaves. -/
def leftBy (h : Handle) (s : State) (pkt : EgressPacket) : Bool :=
  match pkt with
  | .post r _ _ _ => r != .window h
  | .fetch i _ _ _ =>
    match (s.entry i).state with
    | .waiting x => !ofWindow h x
    | _ => true

/-- An egress queue loses exactly the window's traffic (R126). -/
theorem forceRemoval_egress {s : State} (follow : EgressFollowsEntries s) (h : Handle) (k : TargetId) :
    (forceRemoval h s).egress k = (s.egress k).filter (leftBy h s) := by
  rw [forceRemoval_eq, forcedLosses_egress, leaveWaitingAll_egress, List.filter_filter]
  refine List.filter_congr fun pkt queued => ?_
  cases pkt with
  | post r o a d =>
    have none : ((List.finRange Config.replyEntries).any fun i =>
        isFetchOf i (.post r o a d) && endsAt (ofWindow h) k (s.entry i)) = false := List.any_eq_false.2 fun _ _ => nofun
    rw [none]
    cases r with
    | fallback => rfl
    | window j =>
      change (!(j == h) && true) = (Route.window j != .window h)
      have same : (j == h) = (Route.window j == .window h) := by
        rw [Bool.eq_iff_iff, beq_iff_eq, beq_iff_eq, Route.window.injEq]
      rw [same, Bool.and_true]
      rfl
  | fetch i ep a n =>
    obtain ⟨-, w, waiting, target, -⟩ := follow.waiting k i ep a n queued
    have own : ((List.finRange Config.replyEntries).any fun x =>
        isFetchOf x (.fetch i ep a n) && endsAt (ofWindow h) k (s.entry x)) = ofWindow h w := by
      have ends : endsAt (ofWindow h) k (s.entry i) = ofWindow h w := by
        unfold endsAt
        rw [waiting]
        simp [target]
      rw [Bool.eq_iff_iff, List.any_eq_true, ← ends]
      constructor
      · rintro ⟨x, -, both⟩
        rw [Bool.and_eq_true] at both
        have same : i = x := by simpa [isFetchOf] using both.1
        rw [same]
        exact both.2
      · intro picked
        exact ⟨i, List.mem_finRange i, by simp [isFetchOf, picked]⟩
    rw [own]
    unfold leftBy
    dsimp only
    rw [waiting]
    exact Bool.true_and _

/-- Waits that end take no POST from an egress queue. -/
theorem leaveWaitingAll_any {picks : Waiting → Bool} {st : Status} {s : State} {p : EgressPacket → Bool}
    (posts : ∀ pkt, p pkt = true → isPost pkt = true) (g : TargetId) (some : (s.egress g).any p = true) :
    ((leaveWaitingAll picks st s).egress g).any p = true := by
  obtain ⟨pkt, queued, picked⟩ := List.any_eq_true.1 some
  refine List.any_eq_true.2 ⟨pkt, ?_, picked⟩
  rw [leaveWaitingAll_egress, List.mem_filter]
  refine ⟨queued, ?_⟩
  rw [Bool.not_eq_true', List.any_eq_false]
  intro i _ both
  have post := posts pkt picked
  cases pkt with
  | fetch j ep a n => cases post
  | post r o a d => cases both

/-- A window's POSTs that are lost are shown with their target (R126). -/
theorem forceRemoval_shows {h : Handle} {g : TargetId} {s : State}
    (lost : (s.egress g).any (fun pkt => namedRoute pkt == some (.window h)) = true) :
    FlagShows .postsLost (.target g) (forceRemoval h s) := by
  have named : (s.egress g).any (namesWindow h) = true := by
    obtain ⟨pkt, queued, names⟩ := List.any_eq_true.1 lost
    exact List.any_eq_true.2 ⟨pkt, queued, (namesWindow_iff h pkt).2 (by simpa using names)⟩
  have still : ((leaveWaitingAll (ofWindow h) .aborted s).egress g).any (namesWindow h) = true :=
    leaveWaitingAll_any (namesWindow_isPost h) g named
  exact foldl_shows (change := List.filter fun pkt => !namesWindow h pkt)
    (fun s g k => losePosts_egress (namesWindow h) g k s) (fun s g _ _ shown => (ends_losePosts _ g s).shows _ _ shown)
    (fun _ _ some => losePosts_shows some) _ nodup_targets (mem_targets g) _ still

theorem forceRemoval_flagStays {f : Flag} (apart : Flag.postsLost ≠ f) (h : Handle) (s : State) :
    FlagStays f s (forceRemoval h s) :=
  (FlagStays.of_events (leaveWaitingAll_events (ofWindow h) .aborted s)).trans
    (foldl_rel (R := FlagStays f) (fun _ => .of_events rfl) (fun _ _ _ => .trans) _
      (fun u g => losePosts_flagStays apart (namesWindow h) g u) _ _)

theorem forceRemoval_entry (h : Handle) (s : State) (i : Fin Config.replyEntries) :
    (forceRemoval h s).entry i = endedEntry (ofWindow h) .aborted (s.entry i) := by
  rw [forceRemoval_eq, forcedLosses_entry, leaveWaitingAll_entry]

/-- The REPLYs that a source's return queue gains: none for M. -/
def repliesAt (s : State) (src : Source) (picks : Waiting → Bool) (st : Status) : List ReturnPacket :=
  match src with
  | .host h => repliesFor s h picks st
  | .mgmt => []

theorem forceRemoval_returns (h : Handle) (s : State) (src : Source) :
    (forceRemoval h s).returns src = s.returns src ++ repliesAt s src (ofWindow h) .aborted := by
  rw [forceRemoval_eq, forcedLosses_returns]
  cases src with
  | mgmt => exact ((ends_leaveWaitingAll ..).mgmt).trans (List.append_nil _).symm
  | host k => exact leaveWaitingAll_returns ..

/-- Nothing names the window any more, and what names another still does. -/
theorem forceRemoval_named {s : State} (follow : EgressFollowsEntries s) (h : Handle) :
    ¬Named (forceRemoval h s) (.window h) ∧ ∀ k, k ≠ h → Named s (.window k) → Named (forceRemoval h s) (.window k) := by
  constructor
  · rintro (⟨i, w, waiting, route⟩ | ⟨g, pkt, queued, names⟩)
    · rw [forceRemoval_entry, endedEntry_waiting_iff] at waiting
      have picked : ofWindow h w = true := by simp [ofWindow, route]
      rw [picked] at waiting
      cases waiting.2
    · rw [forceRemoval_eq, forcedLosses_egress, List.mem_filter, (namesWindow_iff h pkt).2 names] at queued
      cases queued.2
  · rintro k other (⟨i, w, waiting, route⟩ | ⟨g, pkt, queued, names⟩)
    · refine .inl ⟨i, w, ?_, route⟩
      rw [forceRemoval_entry, endedEntry_waiting_iff]
      exact ⟨waiting, by simp [ofWindow, route, other]⟩
    · refine .inr ⟨g, pkt, ?_, names⟩
      rw [forceRemoval_egress follow, List.mem_filter]
      refine ⟨queued, ?_⟩
      cases pkt with
      | fetch i ep a n => cases names
      | post r o a d =>
        cases names
        simp [leftBy, other]

/-! ### The removed window's drain completes alone (R127) -/

section removal

variable {s : State} (follows : DrainsFollowWindows s) (traffic : DrainingHasTraffic s) (counts : CountsMatch s)
  (egress : EgressFollowsEntries s) {j : DrainJob} (job : j ∈ s.eng.drains)
include follows traffic counts egress job

theorem forceRemoval_completes : completeDrains (forceRemoval j.handle s) = completeJob j (forceRemoval j.handle s) := by
  have ends := ends_forceRemoval j.handle s
  have after : CountsMatch (forceRemoval j.handle s) := counts.ebbs (ebbs_of_forceRemoval j.handle s)
  have handle : ∀ k ∈ s.eng.drains,
      (⟨k.handle.slot, ((forceRemoval j.handle s).slot k.handle.slot).generation⟩ : Handle) = k.handle := fun k hk => by
    obtain ⟨w, -, generation, -⟩ := follows.follows k hk
    rw [(ends.windows _).2, generation]
  have named := forceRemoval_named egress j.handle
  generalize forceRemoval j.handle s = u at ends after handle named ⊢
  refine completeDrains_only (ends.eng ▸ job) (ends.eng ▸ follows.distinct) ?_ fun k hk other => ?_
  · rw [count_eq_zero_iff after, handle j job]
    exact named.1
  · rw [ends.eng] at hk
    rw [Ne, count_eq_zero_iff after, handle k hk, not_not]
    refine named.2 k.handle (fun same => other (congrArg Handle.slot same)) ?_
    have busy := job_hasTraffic follows traffic hk
    obtain ⟨w, -, generation, -⟩ := follows.follows k hk
    rw [Ne, count_eq_zero_iff counts, generation, not_not] at busy
    exact busy

end removal

/-- Settles O47: nothing names the window after the removal, so that its drain completes, and what other jobs wait for stays. -/
theorem forceDrainExpires : Obligations.ForceDrainExpires := by
  unfold Obligations.ForceDrainExpires
  intro s j w e running follows taken traffic counts egress job mode window order held
  have result := exec_drainTimerExpiry_force running follows job mode
  have ends := ends_forceRemoval j.handle s
  have entries := forceRemoval_entry j.handle s
  have replies := forceRemoval_returns j.handle s
  have queues := forceRemoval_egress egress j.handle
  have lost : ∀ g, (s.egress g).any (fun pkt => namedRoute pkt == some (.window j.handle)) = true →
      FlagShows .postsLost (.target g) (forceRemoval j.handle s) := fun g => forceRemoval_shows
  have unexpired : FlagStays .drainExpired s (forceRemoval j.handle s) :=
    forceRemoval_flagStays (by decide) j.handle s
  unfold forceDrain at result
  rw [forceRemoval_completes follows traffic counts egress job] at result
  generalize forceRemoval j.handle s = u at ends entries replies queues lost unexpired result
  have drained := drainsEnd_completeJob j u
  have slots := completeJob_slot j u
  have drains := completeJob_drains j u
  have answers := fun speaks => (completeJob_answers taken ends.eng order held speaks).1
  generalize completeJob j u = v at drained slots drains answers result
  have raised : FlagRaised .forcedRemoval 0 v (setPlainFlag .forcedRemoval v) := flagRaised_raise _ _ _ _ rfl
  have waits : NoHostWaits s → NoHostWaits (setPlainFlag .forcedRemoval v) := fun none h =>
    (congrArg (fun x => x.waiting.get h) (drained.fwd.trans ends.fwd)).trans (none h)
  have moves := moves_offerFreed s (setPlainFlag .forcedRemoval v)
  have idle := fun none => offerFreed_idle s _ (waits none)
  have entry : ∀ i, (setPlainFlag .forcedRemoval v).entry i = endedEntry (ofWindow j.handle) .aborted (s.entry i) := fun i =>
    (drained.entry i).trans (entries i)
  have returns : ∀ src, v.returns src <+: (notify s none (offerFreed s (setPlainFlag .forcedRemoval v))).returns src :=
    fun src => (moves.returns src).trans (notify_returns ..)
  have unset : FlagStays .drainExpired (setPlainFlag .forcedRemoval v) (offerFreed s (setPlainFlag .forcedRemoval v)) :=
    offerFreed_flagStays ⟨by decide, by decide, by decide⟩ s _
  have slot : ∀ i, (notify s none (offerFreed s (setPlainFlag .forcedRemoval v))).slot i =
      (offerFreed s (setPlainFlag .forcedRemoval v)).slot i := fun i => notify_slot ..
  have own : (u.slot j.handle.slot).window = some w := (ends.windows _).1.trans window
  refine ⟨_, result, ?entries, ?lost, ?forced, ?unexpired, ?change, ?retire, ?drains, ?reply, ?others, _, ?fwd, ?position, entry,
    ?egressPosition, ?egress, handOut_notify s none _, ?idle⟩
  case entries =>
    exact allLeftWaiting_of entry (fun h => (replies (.host h)) ▸ drained.returns _) moves idle (fun i => notify_entry ..)
      fun src => notify_returns ..
  case lost =>
    intro g some
    have shown : FlagShows .postsLost (.target g) v := by
      unfold FlagShows
      rw [drained.events]
      exact lost g some
    exact notify_shows (moves.shows _ _ (shows_raise .forcedRemoval 0 v shown)) s none
  case forced =>
    rw [notify_events]
    refine moves.flags _ ?_
    rw [raised.1, BitVec.getLsbD_or, mask_bit, Bool.or_true]
  case unexpired =>
    have stays : FlagStays .drainExpired v (setPlainFlag .forcedRemoval v) := .raised (g := .forcedRemoval) (by decide) rfl
    rw [notify_events]
    exact ((unexpired.trans (.of_events drained.events)).trans stays).trans unset
  case change =>
    intro c change
    rw [slot, (moves.windows _).1, (moves.windows _).2]
    change (v.slot j.handle.slot).window = _ ∧ (v.slot j.handle.slot).generation = _
    rw [slots, if_pos rfl, drainedSlot_change own change]
    exact ⟨rfl, (ends.windows _).2⟩
  case retire =>
    intro retire
    rw [slot, (moves.windows _).1, (moves.windows _).2]
    change (v.slot j.handle.slot).window = _ ∧ (v.slot j.handle.slot).generation = _
    rw [slots, if_pos rfl, drainedSlot_retire own retire]
    exact ⟨rfl, congrArg (· + 1) (ends.windows _).2⟩
  case drains =>
    rw [notify_eng, moves.eng]
    exact drains.trans (by rw [ends.eng])
  case reply =>
    intro speaks
    have placed := answers speaks
    rw [replies] at placed
    exact placed ▸ returns j.source
  case others =>
    intro i other
    rw [slot, (moves.windows _).1]
    change (v.slot i).window = _
    rw [slots, if_neg other]
    exact (ends.windows i).1
  case fwd => exact drained.fwd.trans ends.fwd
  case position => exact (congrArg ReplyTable.position drained.table).trans ends.position
  case egressPosition =>
    change v.ports.egressPosition = _
    rw [drained.ports, ends.ports]
  case egress => exact fun g => (drained.egress g).trans (queues g)
  case idle =>
    intro none g
    rw [idle none, notify_egress]

end Sys2Proof.Machine
end

section
/-! PROOFS. The path reset. -/

namespace Sys2Proof.Machine

/-! ### Ingress queues that are flushed (R51) -/

/-- What a host's CREDIT gives back when its ingress queue is flushed: nothing for an empty one. -/
def creditBack (s : State) (h : HostId) : List (Port × WireUnit) :=
  if s.ingress h = [] then [] else [(.host h, .credit .request (s.ingress h).length)]

/-- The hosts of a list have lost their ingress queues, their credits having gone back in its order. -/
structure Flushed (l : List HostId) (s t : State) : Prop where
  ingress : ∀ k, t.ingress k = if k ∈ l then [] else s.ingress k
  mark : ∀ k, t.mark k = if k ∈ l then .clear else s.mark k
  grant : ∀ k, t.ports.grantedRequest.get k = s.ports.grantedRequest.get k + if k ∈ l then (s.ingress k).length else 0
  sent : t.sent = s.sent ++ l.flatMap (creditBack s)
  frame : t = { s with
    fwd := t.fwd, ports := { s.ports with grantedRequest := t.ports.grantedRequest }, sent := t.sent }

theorem flushIngress_eq (h : HostId) (s : State) :
    flushIngress h s = { s with
      fwd := { s.fwd with ingress := s.fwd.ingress.set h [], waiting := s.fwd.waiting.set h .clear }
      ports := { s.ports with
        grantedRequest := s.ports.grantedRequest.set h (s.ports.grantedRequest.get h + (s.ingress h).length) }
      sent := s.sent ++ creditBack s h } := by
  unfold flushIngress returnRequestCredits creditBack
  by_cases none : s.ingress h = []
  · have grant : s.ports.grantedRequest.set h (s.ports.grantedRequest.get h + 0) = s.ports.grantedRequest :=
      PerHost.set_get _ _
    rw [none, if_pos List.length_nil, if_pos rfl, List.length_nil, grant, List.append_nil]
    rfl
  · rw [if_neg fun zero => none (List.length_eq_zero_iff.1 zero), if_neg none]
    rfl

theorem flushed_nil (s : State) : Flushed [] s s := ⟨fun _ => rfl, fun _ => rfl, fun _ => rfl, (List.append_nil _).symm, rfl⟩

/-- A host's queue is flushed and then those of a list without it. -/
theorem Flushed.cons {h : HostId} {l : List HostId} {s t : State} (new : h ∉ l) (rest : Flushed l (flushIngress h s) t) :
    Flushed (h :: l) s t := by
  have ingress : ∀ k, (flushIngress h s).ingress k = if k = h then [] else s.ingress k := fun k => by
    rw [flushIngress_eq]
    exact PerHost.get_set ..
  have mark : ∀ k, (flushIngress h s).mark k = if k = h then .clear else s.mark k := fun k => by
    rw [flushIngress_eq]
    exact PerHost.get_set ..
  have credits : l.flatMap (creditBack (flushIngress h s)) = l.flatMap (creditBack s) := by
    rw [List.flatMap_def, List.flatMap_def]
    congr 1
    refine List.map_congr_left fun k hk => ?_
    unfold creditBack
    rw [ingress, if_neg (ne_of_mem_of_not_mem hk new)]
  refine ⟨fun k => ?_, fun k => ?_, fun k => ?_, ?_, ?_⟩
  · rw [rest.ingress, ingress]
    by_cases own : k = h
    · simp [own]
    · simp [own]
  · rw [rest.mark, mark]
    by_cases own : k = h
    · simp [own]
    · simp [own]
  · rw [rest.grant, ingress, flushIngress_eq]
    change (s.ports.grantedRequest.set h _).get k + _ = _
    rw [PerHost.get_set]
    by_cases own : k = h
    · subst own
      simp [new]
    · simp [own]
  · rw [rest.sent, credits, flushIngress_eq, List.flatMap_cons, List.append_assoc]
  · have frame := rest.frame
    rw [flushIngress_eq] at frame
    exact frame

theorem flushed_foldl (l : List HostId) (distinct : l.Nodup) (s : State) :
    Flushed l s (l.foldl (fun s h => flushIngress h s) s) := by
  induction l generalizing s with
  | nil => exact flushed_nil s
  | cons h l ih =>
    obtain ⟨new, distinct⟩ := List.nodup_cons.1 distinct
    exact (ih distinct (flushIngress h s)).cons new

theorem mem_hosts (h : HostId) : h ∈ HostId.all := by cases h <;> decide

/-- Every host's ingress queue has been flushed (R51). -/
def hostsFlushed (s : State) : State := HostId.all.foldl (fun s h => flushIngress h s) s

theorem hostsFlushed_spec (s : State) : Flushed HostId.all s (hostsFlushed s) := flushed_foldl _ (by decide) s

/-! ### Egress queues that are flushed (R159) -/

/-- Every target's egress queue has been flushed (R159). -/
def targetsFlushed (s : State) : State := TargetId.all.foldl (fun s g => flushEgress g s) s

theorem pathsEmptied_eq (s : State) :
    pathsEmptied s = targetsFlushed (leaveWaitingAll (fun _ => true) .aborted (hostsFlushed s)) := rfl

theorem ends_flushEgress (g : TargetId) (s : State) : TrafficEnds s (flushEgress g s) :=
  (ends_losePosts isPost g s).trans (ends_clearEgress g _)

theorem ends_targetsFlushed (s : State) : TrafficEnds s (targetsFlushed s) :=
  foldl_rel (R := TrafficEnds) TrafficEnds.refl (fun _ _ _ => TrafficEnds.trans) _ (fun u g => ends_flushEgress g u) _ _

theorem flushEgress_egress (s : State) (g k : TargetId) :
    (flushEgress g s).egress k = if k = g then [] else s.egress k := by
  unfold flushEgress
  rw [State.setEgress_egress]
  split
  · rfl
  · next other => rw [losePosts_egress, if_neg other]

theorem targetsFlushed_egress (s : State) (k : TargetId) : (targetsFlushed s).egress k = [] :=
  (foldl_egress (change := fun _ => []) flushEgress_egress _ nodup_targets s k).trans (if_pos (mem_targets k))

theorem targetsFlushed_shows {s : State} {g : TargetId} (lost : (s.egress g).any isPost = true) :
    FlagShows .postsLost (.target g) (targetsFlushed s) :=
  foldl_shows (change := fun _ => []) flushEgress_egress (fun s g _ _ shown => (ends_flushEgress g s).shows _ _ shown)
    (fun _ g some => (ends_clearEgress g _).shows _ _ (losePosts_shows some)) _ nodup_targets (mem_targets g) s lost

theorem flushEgress_entry (g : TargetId) (s : State) (i : Fin Config.replyEntries) : (flushEgress g s).entry i = s.entry i := by
  unfold flushEgress
  rw [State.setEgress_entry, losePosts_entry]

theorem flushEgress_returns (g : TargetId) (s : State) (k : Source) : (flushEgress g s).returns k = s.returns k := by
  unfold flushEgress
  rw [State.setEgress_returns, losePosts_returns]

theorem targetsFlushed_entry (s : State) (i : Fin Config.replyEntries) : (targetsFlushed s).entry i = s.entry i := by
  unfold targetsFlushed
  exact foldl_rel (R := fun u v : State => v.entry i = u.entry i) (fun _ => rfl) (fun _ _ _ a b => b.trans a)
    (fun u g => flushEgress g u) (fun u g => flushEgress_entry g u i) _ _

theorem targetsFlushed_returns (s : State) (k : Source) : (targetsFlushed s).returns k = s.returns k := by
  unfold targetsFlushed
  exact foldl_rel (R := fun u v : State => v.returns k = u.returns k) (fun _ => rfl) (fun _ _ _ a b => b.trans a)
    (fun u g => flushEgress g u) (fun u g => flushEgress_returns g u k) _ _

/-! ### The part when its paths are empty, before its drains complete -/

/-- What the emptying of the paths leaves, field by field (R51, R64, R159). -/
structure PathsEmptied (s u : State) : Prop where
  ingress : ∀ h, u.ingress h = []
  mark : ∀ h, u.mark h = .clear
  grant : ∀ h, u.ports.grantedRequest.get h = s.ports.grantedRequest.get h + (s.ingress h).length
  sent : u.sent = s.sent ++ HostId.all.flatMap (creditBack s)
  entry : ∀ i, u.entry i = endedEntry (fun _ => true) .aborted (s.entry i)
  egress : ∀ g, u.egress g = []
  replies : ∀ h, u.returns (.host h) = s.returns (.host h) ++ repliesFor s h (fun _ => true) .aborted
  mgmt : u.returns .mgmt = s.returns .mgmt
  lost : ∀ g, (s.egress g).any isPost = true → FlagShows .postsLost (.target g) u
  windows : WindowsKept s u
  fallback : u.dir.fallback = s.dir.fallback
  eng : u.eng = s.eng
  ctl : u.ctl = s.ctl
  position : u.table.position = s.table.position
  ports : u.ports = { s.ports with
    grantedRequest := u.ports.grantedRequest, egress := u.ports.egress, returns := u.ports.returns }

theorem pathsEmptied_spec (s : State) : PathsEmptied s (pathsEmptied s) := by
  have flushed := hostsFlushed_spec s
  have frame := flushed.frame
  rw [pathsEmptied_eq]
  generalize hostsFlushed s = a at flushed frame
  have entries : ∀ i, a.entry i = s.entry i := fun i => by rw [frame]; rfl
  have egress : ∀ g, a.egress g = s.egress g := fun g => by rw [frame]; rfl
  have returns : ∀ src, a.returns src = s.returns src := fun src => by rw [frame]; rfl
  have waits := ends_leaveWaitingAll (fun _ => true) .aborted a
  have ended := leaveWaitingAll_entry (fun _ => true) .aborted a
  have replies := fun h => leaveWaitingAll_returns h (fun _ => true) .aborted a
  have posts : ∀ g, (a.egress g).any isPost = true →
      ((leaveWaitingAll (fun _ => true) .aborted a).egress g).any isPost = true := fun g =>
    leaveWaitingAll_any (fun _ h => h) g
  generalize leaveWaitingAll (fun _ => true) .aborted a = b at waits ended replies posts
  have ends := waits.trans (ends_targetsFlushed b)
  have entry := targetsFlushed_entry b
  have empty := targetsFlushed_egress b
  have queued := targetsFlushed_returns b
  have lost : ∀ g, (b.egress g).any isPost = true → FlagShows .postsLost (.target g) (targetsFlushed b) :=
    fun g => targetsFlushed_shows
  generalize targetsFlushed b = u at ends entry empty queued lost
  exact {
    ingress := fun h => by
      unfold State.ingress
      rw [ends.fwd]
      exact (flushed.ingress h).trans (if_pos (mem_hosts h))
    mark := fun h => by
      unfold State.mark
      rw [ends.fwd]
      exact (flushed.mark h).trans (if_pos (mem_hosts h))
    grant := fun h => by rw [ends.ports, flushed.grant, if_pos (mem_hosts h)]
    sent := ends.sent.trans flushed.sent
    entry := fun i => by rw [entry, ended, entries]
    egress := empty
    replies := fun h => by rw [queued, replies, returns, repliesFor_congr entries]
    mgmt := by rw [ends.mgmt, returns]
    lost := fun g some => lost g (posts g (by rw [egress]; exact some))
    windows := fun i => by
      have same : a.slot i = s.slot i := by rw [frame]; rfl
      rw [← same]
      exact ends.windows i
    fallback := by rw [ends.fallback, frame]
    eng := by rw [ends.eng, frame]
    ctl := by rw [ends.ctl, frame]
    position := by rw [ends.position, frame]
    ports := by rw [ends.ports, frame] }

section emptied

variable {s u : State} (emptied : PathsEmptied s u)
include emptied

/-- Nothing names a route any more. -/
theorem PathsEmptied.unnamed (r : Route) : ¬Named u r := by
  rintro (⟨i, w, waiting, -⟩ | ⟨g, pkt, queued, -⟩)
  · rw [emptied.entry, endedEntry_waiting_iff] at waiting
    cases waiting.2
  · rw [emptied.egress] at queued
    cases queued

theorem PathsEmptied.count (counts : CountsMatch u) (i : Fin Config.slots) : (u.slot i).count = 0 :=
  (count_eq_zero_iff counts i).2 (emptied.unnamed _)

/-- A slot that was FREE is as it was: its count was zero before (R21). -/
theorem PathsEmptied.slot_free (before : CountsMatch s) (counts : CountsMatch u) {i : Fin Config.slots}
    (free : (s.slot i).window = none) : u.slot i = s.slot i := by
  have zero := emptied.count counts i
  obtain ⟨window, generation⟩ := emptied.windows i
  rw [← before.free i free] at zero
  generalize u.slot i = x at window generation zero
  cases x
  cases window
  cases generation
  cases zero
  rfl

end emptied

/-- What a path reset leaves of a slot: a DRAINING window's drain completes, every other window stays, and the count is zero
(R130, R192). -/
structure SlotReset (i : Fin Config.slots) (s t : State) : Prop where
  count : (t.slot i).count = 0
  free : (s.slot i).window = none → t.slot i = s.slot i
  kept : ∀ w, (s.slot i).window = some w → isDraining w.state = false →
    (t.slot i).window = some w ∧ (t.slot i).generation = (s.slot i).generation
  change : ∀ w c, (s.slot i).window = some w → w.state = .drainChange c →
    (t.slot i).window = some { changed c w with state := .live } ∧ (t.slot i).generation = (s.slot i).generation
  retire : ∀ w, (s.slot i).window = some w → w.state = .drainRetire →
    (t.slot i).window = none ∧ (t.slot i).generation = (s.slot i).generation + 1

theorem slotReset_completeDrains {s u : State} (emptied : PathsEmptied s u) (before : CountsMatch s) (counts : CountsMatch u)
    (held : DrainsHeld u) (follows : DrainsFollowWindows s) (i : Fin Config.slots) : SlotReset i s (completeDrains u) := by
  have drained := drainsEnd_completeDrains u
  have zero := emptied.count counts
  obtain ⟨window, generation⟩ := emptied.windows i
  have settled : (∀ w, (s.slot i).window = some w → isDraining w.state = false) → (completeDrains u).slot i = u.slot i :=
    fun none => completeDrains_slot_kept fun j job slot _ => by
      subst slot
      rw [emptied.eng] at job
      obtain ⟨w, hw, -, purpose⟩ := follows.follows j job
      have draining := isDraining_of_drainPurpose purpose
      rw [none w hw] at draining
      cases draining
  have draining : ∀ w, (s.slot i).window = some w → isDraining w.state = true →
      (completeDrains u).slot i = drainedSlot (u.slot i) := fun w hw draining => by
    obtain ⟨j, job, rfl⟩ := follows.followed i w hw draining
    exact completeDrains_slot_done held (emptied.eng ▸ job) (zero _)
  refine ⟨(drained.counts i).trans (zero i), fun free => ?_, fun w hw calm => ?_, fun w c hw change => ?_, fun w hw retire => ?_⟩
  · rw [settled fun w hw => by rw [free] at hw; cases hw]
    exact emptied.slot_free before counts free
  · rw [settled fun v hv => by rw [hw] at hv; cases hv; exact calm]
    exact ⟨window.trans hw, generation⟩
  · rw [draining w hw (by rw [change]; rfl), drainedSlot_change (window.trans hw) change]
    exact ⟨rfl, generation⟩
  · rw [draining w hw (by rw [retire]; rfl), drainedSlot_retire (window.trans hw) retire]
    exact ⟨rfl, congrArg (· + 1) generation⟩

/-- The end of a path reset, its drains having completed: RESET_SEEN, the cause record and the order's own reply (R191 to R193). -/
def pathResetDone (e : OrderEntry) (s v : State) : State :=
  answerOrder .mgmt e .done (pathResetBytes s (addPathCause (setPlainFlag .resetSeen v))) (addPathCause (setPlainFlag .resetSeen v))

/-- The own reply of the path reset stands behind those of its drains, with the numbers of what it removed (R193). -/
theorem pathResetDone_returns (e : OrderEntry) (s v : State) :
    (pathResetDone e s v).returns .mgmt = v.returns .mgmt ++ [.orderReply e.sequence e.code .done
      [BitVec.ofNat 8 (waitingEntries s), BitVec.ofNat 8 (queuedPosts s),
       BitVec.ofNat 8 (s.eng.drains.length - v.eng.drains.length)]] :=
  (returns_pushReturn ..).trans (if_pos rfl)

theorem pathResetDone_eng (e : OrderEntry) (s v : State) :
    (pathResetDone e s v).eng = { v.eng with orders := (pathResetDone e s v).eng.orders } := rfl

theorem pathResetDone_ports (e : OrderEntry) (s v : State) :
    (pathResetDone e s v).ports = { v.ports with returns := (pathResetDone e s v).ports.returns } := rfl

/-- The replies of M's drains at a path reset, in the order of the drain list (R193). -/
theorem doneReplies_mgmt {s u : State} (eng : u.eng = (s.setArbiter .mgmt).eng)
    (zero : ∀ j ∈ s.eng.drains, (u.slot j.handle.slot).count = 0) :
    listedReplies u.eng.drains u .mgmt = s.eng.drains.filterMap fun j =>
      if j.source = .mgmt ∧ (s.orders .mgmt).any (fun x => x.state == .taken j.handle.slot && !x.silent) = true then
        some (.orderReply j.sequence j.code .done [])
      else none := by
  rw [listedReplies_eq (picks := fun _ => true) eng fun j job => iff_of_true (zero j job) rfl]
  unfold doneReplies
  refine List.filterMap_congr fun j _ => ?_
  by_cases own : j.source = .mgmt
  · have owed : replyOwed (s.setArbiter .mgmt) j =
        (s.orders .mgmt).any fun x => x.state == .taken j.handle.slot && !x.silent := by
      unfold replyOwed
      rw [own]
      rfl
    rw [owed]
    simp only [own, true_and]
  · rw [if_neg fun both => own both.1, if_neg fun both => own both.1]

/-- A RESET_PATHS of M passes its checks. -/
theorem exec_resetPaths {s : State} {e : OrderEntry} (decides : Decides s .mgmt e .resetPaths) :
    exec .resetPaths s = .next (notify s none (answerOrder .mgmt e .done
      (pathResetBytes (s.setArbiter .mgmt) (pathReset (s.setArbiter .mgmt))) (pathReset (s.setArbiter .mgmt)))) :=
  exec_passed decides (orderChecks_setting rfl rfl nofun rfl rfl)

/-- Settles O60: the emptied paths leave every count at zero, so that every drain completes. -/
theorem pathResetActs : Obligations.PathResetActs := by
  unfold Obligations.PathResetActs
  intro s e decides before follows taken
  have result := exec_resetPaths decides
  have emptied := pathsEmptied_spec (s.setArbiter .mgmt)
  have ebbs := ebbs_of_pathsEmptied (s.setArbiter .mgmt)
  have beforeA : CountsMatch (s.setArbiter .mgmt) := before.same rfl (fun _ => rfl) fun _ => rfl
  have followsA : DrainsFollowWindows (s.setArbiter .mgmt) :=
    DrainsFollowWindows.stands (s := s) ⟨fun _ => ⟨rfl, rfl⟩, rfl, rfl⟩ follows
  have takenA : TakenFollowsDrains (s.setArbiter .mgmt) := taken.same rfl fun _ => rfl
  have counts := beforeA.ebbs ebbs
  have held : DrainsHeld (pathsEmptied (s.setArbiter .mgmt)) := DrainsHeld.ebbs ebbs ⟨followsA, takenA⟩
  rw [pathReset_eq] at result
  generalize pathsEmptied (s.setArbiter .mgmt) = u at emptied ebbs counts held result
  have slots := slotReset_completeDrains emptied beforeA counts held followsA
  have drained := drainsEnd_completeDrains u
  have drains : (completeDrains u).eng.drains = [] := by
    rw [completeDrains_drains, List.filter_eq_nil_iff]
    intro j _
    rw [emptied.count counts]
    decide
  have returns := completeDrains_returns held .mgmt
  generalize completeDrains u = v at slots drained drains returns result
  have raised : FlagRaised .resetSeen 0 v (setPlainFlag .resetSeen v) := flagRaised_raise _ _ _ _ rfl
  have entry : ∀ i, v.entry i = endedEntry (fun _ => true) .aborted (s.entry i) := fun i =>
    (drained.entry i).trans (emptied.entry i)
  have queues : ∀ src, v.returns src <+: (pathResetDone e s v).returns src := fun src => by
    unfold pathResetDone answerOrder
    rw [returns_pushReturn]
    split
    · exact List.prefix_append _ _
    · exact List.prefix_rfl
  have done : exec .resetPaths s = .next (notify s none (pathResetDone e s v)) := result
  clear result
  refine ⟨_, done, ?hosts, ?sent, ?entries, ?freed, ?targets, ?fallbackCount, ?drains, ?slots, ?seen, ?ctl, ?replies, ?eng, ?ports,
    ?position, ?fallback⟩
  case hosts =>
    intro h
    rw [notify_ingress, notify_mark, notify_ports]
    exact ⟨(congrArg (fun x => x.ingress.get h) drained.fwd).trans (emptied.ingress h),
      (congrArg (fun x => x.waiting.get h) drained.fwd).trans (emptied.mark h),
      (congrArg (fun x => x.grantedRequest.get h) drained.ports).trans (emptied.grant h)⟩
  case sent =>
    rw [notify_sent]
    exact drained.sent.trans emptied.sent
  case entries =>
    refine allLeftWaiting_of (u := v) entry (fun h => ?_) (.refl v) (fun _ => rfl) (fun i => notify_entry ..) fun src =>
      (queues src).trans (notify_returns ..)
    exact emptied.replies h ▸ drained.returns _
  case freed =>
    intro i w waiting orphan
    rw [notify_entry]
    change (v.entry i).state = .free
    rw [entry, endedEntry_picked waiting rfl, orphan]
    rfl
  case targets =>
    refine fun g => ⟨?_, fun some => ?_⟩
    · rw [notify_egress]
      exact (drained.egress g).trans (emptied.egress g)
    · have shown : FlagShows .postsLost (.target g) v := by
        unfold FlagShows
        rw [drained.events]
        exact emptied.lost g some
      have still : FlagShows .postsLost (.target g) (pathResetDone e s v) := shows_raise .resetSeen 0 v shown
      exact notify_shows still s none
  case fallbackCount =>
    rw [notify_dir]
    exact drained.fallbackCount.trans ((fallbackCount_eq_zero_iff counts).2 (emptied.unnamed _))
  case drains => rw [notify_eng]; exact drains
  case slots =>
    intro i
    rw [notify_slot]
    exact ⟨(slots i).count, (slots i).free, fun w hw => ⟨(slots i).kept w hw, fun c => (slots i).change w c hw, (slots i).retire w hw⟩⟩
  case seen =>
    rw [notify_events]
    change (setPlainFlag .resetSeen v).events.pending.getLsbD _ = true
    rw [raised.1, BitVec.getLsbD_or, mask_bit, Bool.or_true]
  case ctl =>
    rw [notify_ctl]
    change { v.ctl with cause := { v.ctl.cause with path := true } } = _
    rw [drained.ctl, emptied.ctl]
    rfl
  case replies =>
    refine List.IsPrefix.trans ?_ (notify_returns s none (s := pathResetDone e s v) .mgmt)
    rw [pathResetDone_returns, returns, emptied.mgmt, doneReplies_mgmt emptied.eng fun j _ => emptied.count counts _, drains]
    exact List.prefix_rfl
  case eng =>
    rw [notify_eng]
    conv_lhs => rw [pathResetDone_eng, drained.eng, emptied.eng, drains]
    rfl
  case ports =>
    have kept : v.ports = { s.ports with
        grantedRequest := v.ports.grantedRequest, egress := v.ports.egress, returns := v.ports.returns } := by
      rw [drained.ports, emptied.ports]
      rfl
    rw [notify_ports]
    conv_lhs => rw [pathResetDone_ports, kept]
    rfl
  case position =>
    rw [notify_table]
    exact (congrArg ReplyTable.position drained.table).trans emptied.position
  case fallback =>
    rw [notify_dir]
    change v.dir.fallback = _
    rw [drained.rest]
    exact emptied.fallback

end Sys2Proof.Machine
end
